-- ==== Sys2Proof/Word.lean ====
section
/-! DEFINITION. The widths every other file shares: the 32-bit word of commands and response data
(rules R80 to R82), the 12-bit phase (R15) and the 12-bit table sample (R36, R37). A binary32 value is
held as its 32-bit IEEE pattern (R62). -/

namespace Sys2Proof

/-- A command word, a response datum, or the IEEE pattern of a binary32 value. -/
abbrev Word := BitVec 32

/-- An oscillator phase, 0..4095: the index of every sample table. -/
abbrev Phase := BitVec 12

/-- A table sample, 0..4095 (decision D9: unsigned, presented zero-extended). -/
abbrev Sample := BitVec 12

end Sys2Proof
end

