-- ==== Sys2Proof/Config.lean ====
section
/-! DEFINITION. What an implementation fixes (the OPEN parameters of rule R10) and the free values of
the model. A constant declared `opaque` here has no body: no proof can learn what it is, so a claim
that mentions one holds whatever it is. -/

namespace Sys2Proof

/-- The closed set of distance functions of rule R100. Selector code 3 is never stored (R32), so it
has no constructor. -/
inductive DistanceFn where
  | exponential
  | linear
  | quadratic
  deriving DecidableEq, Repr, Inhabited

/-- One parameter entry, the six fields of the table of rule R32. The five numbers are binary32
patterns. -/
structure ParamEntry where
  /-- The distance-function selector. -/
  fn            : DistanceFn
  /-- The least pulled value that still reads as a logical 1. -/
  threshold     : Word
  /-- The scale factor of phase bit 11. -/
  topbit        : Word
  /-- The offset subtracted from every numerator. -/
  pulsestrength : Word
  /-- The distance parameter of the negative offsets: influence from higher-index bits (conflict C2). -/
  distance1     : Word
  /-- The distance parameter of the positive offsets: influence from lower-index bits (conflict C2). -/
  distance2     : Word
  deriving DecidableEq, Repr, Inhabited

/-- `PARAM_ROM[m][v][c]`: 2 chip models, 3 variance classes, 5 combinations (rules R32 and R33). -/
abbrev ParamRom := Vector (Vector (Vector ParamEntry 5) 3) 2

/-- The OPEN parameter NUMERICS of rule R10 and decision D10: the reference, or any other total
function of the same operands (the constants `Config.other…` below). -/
inductive Numerics where
  /-- IEEE 754 binary32, each operation rounded once to nearest even, in the written order. -/
  | reference
  /-- Any other total evaluation: nothing is known of its values. -/
  | other
  deriving DecidableEq, Repr, Inhabited

/-- The OPEN parameters of rule R10 that a rule of the spec reads. They are plain data held in the
state and never written. N_PORTS is the length of the state's port list. -/
structure Params where
  /-- `PARAM_ROM`, rules R32 and R33. -/
  paramRom       : ParamRom
  /-- `NUMERICS`, rules R10 and R12. -/
  numerics       : Numerics
  /-- `MAX_OUTSTANDING`, rules R10 and R265. -/
  maxOutstanding : Nat
  deriving DecidableEq, Repr, Inhabited

namespace Config

/-- The parameters of the machine that `State.reset` stands for: OPEN, nothing is known of them
(rule R33: "A model must not assume any particular value"). Log entry 1. -/
opaque params : Params

/-- N_PORTS is OPEN and at least 1 (rule R10): the block has this many ports beyond port 0. Log entry 2. -/
opaque furtherPorts : Nat

/-- Under numerics other than the reference: the weight of distance function `fn` at distance `d` and
bit distance `i`. Log entry 3. -/
opaque otherWeight : DistanceFn → Word → Nat → Word

/-- Under numerics other than the reference: the sum `n` of the weights used for output bit `sb`. Log
entry 3. -/
opaque otherWeightSum : ParamEntry → Nat → Word

/-- Under numerics other than the reference: whether 1 − pulldown of bit `sb` exceeds the threshold.
Log entry 3. -/
opaque otherKeeps : ParamEntry → Phase → Nat → Bool

/-- The sign and payload of a NaN result, by the operands: IEEE 754 leaves them open. Log entry 4. -/
opaque nanBits : Word → Word → Word

/-- `fpow_neg(d, i)` for a `d` that is zero, infinite or NaN: there is no real d^(−i), so rule R12
states no result. Log entry 5. -/
opaque powOutside : Word → Nat → Word

/-- What an element of an unbuilt slot holds after reset number `epoch` (rule R37: unspecified),
arguments epoch, slot, combination, phase. Log entry 6. -/
opaque unspecifiedSample : Nat → Nat → Nat → Nat → Sample

/-- Which of the moves it owes the block makes, by how many it has made: the arbiter is OPEN (rule R67).
Log entry 20. -/
opaque arbiterPick : Nat → Nat

end Config

end Sys2Proof
end

