-- ==== Sys2Proof/Syntax.lean ====
section
/-! DEFINITION. The command set of rule R84, one constructor per row of the opcode table, and the
closed sets its fields draw from. An operand keeps the code of its field: a code outside its set is a
legal word that raises a range fault when it is performed (rule R88), so it must stay writable. -/

namespace Sys2Proof

/-- Field M: the chip model (decision D5). One bit, so every code names a model. -/
inductive ChipModel where
  | mos6581
  | mos8580
  deriving DecidableEq, Repr, Inhabited

/-- The three variance classes of field V (decision D6). -/
inductive VClass where
  | average
  | weak
  | strong
  deriving DecidableEq, Repr, Inhabited

/-- The five waveform combinations of field SEL, in the order of rule R83. -/
inductive Comb where
  | ts
  | pt
  | ps
  | pts
  | np
  deriving DecidableEq, Repr, Inhabited

/-- The four basic waveform kinds of RDBASIC's field SEL (conflict C3, decision D8). -/
inductive BasicKind where
  | high
  | tri
  | saw
  | pas
  deriving DecidableEq, Repr, Inhabited

/-- The six fields of a parameter entry, by RDPARAM's field IDX (rule R32). -/
inductive ParamField where
  | fn
  | threshold
  | topbit
  | pulsestrength
  | distance1
  | distance2
  deriving DecidableEq, Repr, Inhabited

/-- The nine commands of rule R84. `v`, `sel` and `idx` are the codes of fields V, SEL and IDX. -/
inductive Instr where
  /-- R210. -/
  | nop
  /-- R211. -/
  | status
  /-- R195. -/
  | rdbasic (sel : BitVec 3) (phase : Phase)
  /-- R162. -/
  | build (m : ChipModel) (v : BitVec 2)
  /-- R165. -/
  | rdcomb (m : ChipModel) (v : BitVec 2) (sel : BitVec 3) (phase : Phase)
  /-- R139. -/
  | calculate (m : ChipModel) (v : BitVec 2) (sel : BitVec 3) (phase : Phase)
  /-- R109. -/
  | rdparam (m : ChipModel) (v : BitVec 2) (sel : BitVec 3) (idx : BitVec 5)
  /-- R110. -/
  | rddist (m : ChipModel) (v : BitVec 2) (sel : BitVec 3) (idx : BitVec 5)
  /-- R212. -/
  | rdfault
  deriving DecidableEq, Repr

end Sys2Proof
end

