-- ==== Sys2Proof/WellFormed.lean ====
section
/-! DEFINITION. The range checks on a command's fields that depend on the command alone (steps 4 to 6
of rule R231, ranges of rule R88). A command that fails one is still a legal word: it decodes, and
performing it raises the range fault. -/

namespace Sys2Proof

/-- Field V names a variance class. -/
def vInRange (v : BitVec 2) : Bool := decide (v.toNat ≤ 2)

/-- Field SEL names a combination. -/
def combInRange (sel : BitVec 3) : Bool := decide (sel.toNat ≤ 4)

/-- Field SEL names a basic kind. -/
def kindInRange (sel : BitVec 3) : Bool := decide (sel.toNat ≤ 3)

/-- Field IDX names a parameter field. -/
def fieldInRange (idx : BitVec 5) : Bool := decide (idx.toNat ≤ 5)

/-- Field IDX names an entry of the distance table. -/
def weightInRange (idx : BitVec 5) : Bool := decide (idx.toNat ≤ 24)

/-- Every index the command carries names an element that exists (rules R61 and R88). -/
def Instr.wellFormed : Instr → Bool
  | .nop => true
  | .status => true
  | .rdbasic sel _ => kindInRange sel
  | .build _ v => vInRange v
  | .rdcomb _ v sel _ => vInRange v && combInRange sel
  | .calculate _ v sel _ => vInRange v && combInRange sel
  | .rdparam _ v sel idx => vInRange v && combInRange sel && fieldInRange idx
  | .rddist _ v sel idx => vInRange v && combInRange sel && weightInRange idx
  | .rdfault => true

end Sys2Proof
end

