-- ==== Sys2Proof/Decode.lean ====
section
/-! DEFINITION. The command word (rules R82 to R89): its fields, the decoder, total on every 32-bit
word and rejecting by name, and after it the encoder, written from the same tables. -/

namespace Sys2Proof

/-- Why a word is no command. -/
inductive DecodeError where
  /-- OP is 0x9..0xF (rule R86). -/
  | illegalOp
  /-- A must-be-zero field of the opcode is nonzero (rule R85). -/
  | reservedNonzero
  deriving DecidableEq, Repr

/-- `OP = w[31:28]` (rule R83). -/
def opField (w : Word) : BitVec 4 := w.extractLsb' 28 4

/-- `M = w[27]`. -/
def mField (w : Word) : ChipModel := if w.getLsbD 27 then .mos8580 else .mos6581

/-- `V = w[26:25]`. -/
def vField (w : Word) : BitVec 2 := w.extractLsb' 25 2

/-- `SEL = w[24:22]`. -/
def selField (w : Word) : BitVec 3 := w.extractLsb' 22 3

/-- `IDX = w[21:17]`. -/
def idxField (w : Word) : BitVec 5 := w.extractLsb' 17 5

/-- `RSV = w[16:12]`. -/
def rsvField (w : Word) : BitVec 5 := w.extractLsb' 12 5

/-- `PHASE = w[11:0]`. -/
def phaseField (w : Word) : Phase := w.extractLsb' 0 12

/-- The command, if every bit under its must-be-zero mask is 0 (rule R85; the masks are MBZ_MASK of
rule R231's pseudocode). -/
def checkedMbz (w mask : Word) (i : Instr) : Except DecodeError Instr :=
  if w &&& mask = 0 then .ok i else .error .reservedNonzero

/-- The decoder: OP alone tells the command (rule R89), and the must-be-zero fields of rule R84 are
checked. NOP, STATUS and RDFAULT ignore bits 27:0 (rule R87). -/
def decode (w : Word) : Except DecodeError Instr :=
  match (opField w).toNat with
  | 0 => .ok .nop
  | 1 => .ok .status
  | 2 => checkedMbz w 0x0E3FF000 (.rdbasic (selField w) (phaseField w))
  | 3 => checkedMbz w 0x01FFFFFF (.build (mField w) (vField w))
  | 4 => checkedMbz w 0x003FF000 (.rdcomb (mField w) (vField w) (selField w) (phaseField w))
  | 5 => checkedMbz w 0x003FF000 (.calculate (mField w) (vField w) (selField w) (phaseField w))
  | 6 => checkedMbz w 0x0001FFFF (.rdparam (mField w) (vField w) (selField w) (idxField w))
  | 7 => checkedMbz w 0x0001FFFF (.rddist (mField w) (vField w) (selField w) (idxField w))
  | 8 => .ok .rdfault
  | _ => .error .illegalOp

/-- Bit M of a model (decision D5). -/
def modelBit : ChipModel → BitVec 1
  | .mos6581 => 0
  | .mos8580 => 1

/-- `{OP[3:0], M, V[1:0], SEL[2:0], IDX[4:0], RSV[4:0], PHASE[11:0]}` with RSV = 0 (rule R82). -/
def commandWord (op : BitVec 4) (m : BitVec 1) (v : BitVec 2) (sel : BitVec 3) (idx : BitVec 5)
    (phase : Phase) : Word :=
  op ++ m ++ v ++ sel ++ idx ++ (0 : BitVec 5) ++ phase

/-- The word the assembler of rule R90 writes: 0 in every field the form does not name. -/
def encode : Instr → Word
  | .nop => commandWord 0x0 0 0 0 0 0
  | .status => commandWord 0x1 0 0 0 0 0
  | .rdbasic sel phase => commandWord 0x2 0 0 sel 0 phase
  | .build m v => commandWord 0x3 (modelBit m) v 0 0 0
  | .rdcomb m v sel phase => commandWord 0x4 (modelBit m) v sel 0 phase
  | .calculate m v sel phase => commandWord 0x5 (modelBit m) v sel 0 phase
  | .rdparam m v sel idx => commandWord 0x6 (modelBit m) v sel idx 0
  | .rddist m v sel idx => commandWord 0x7 (modelBit m) v sel idx 0
  | .rdfault => commandWord 0x8 0 0 0 0 0

/-- The (match, mask) pair of the command's row of the opcode map (rule R84). -/
def opcodeRow : Instr → Word × Word
  | .nop => (0x00000000, 0xF0000000)
  | .status => (0x10000000, 0xF0000000)
  | .rdbasic _ _ => (0x20000000, 0xFE3FF000)
  | .build _ _ => (0x30000000, 0xF1FFFFFF)
  | .rdcomb _ _ _ _ => (0x40000000, 0xF03FF000)
  | .calculate _ _ _ _ => (0x50000000, 0xF03FF000)
  | .rdparam _ _ _ _ => (0x60000000, 0xF001FFFF)
  | .rddist _ _ _ _ => (0x70000000, 0xF001FFFF)
  | .rdfault => (0x80000000, 0xF0000000)

/-- The word of `nbits` bits as the block receives it: one 32-bit parallel value, the bits above
`nbits` zero (rules R62 and R89: no byte order, one length). -/
def tableWord (nbits w : Nat) : Word := BitVec.ofNat 32 (w % 2 ^ nbits)

/-- The instruction the decoder reads from a word numbered as the opcode table numbers it. A command
is exactly one 32-bit word (rule R89), so nothing longer is one. -/
def decodeTableWord (nbits w : Nat) : Option Instr :=
  if nbits ≤ 32 then
    match decode (tableWord nbits w) with
    | .ok i => some i
    | .error _ => none
  else none

end Sys2Proof
end

