-- ==== Sys2Proof/Machine/Binary32.lean ====
section
/-! DEFINITION. The binary32 primitives of rule R12 under the reference numerics: every operation takes
its operands to exact integers, computes exactly, and rounds once to nearest, ties to even. A finite
binary32 is an integer multiple of 2^−149 (its "scaled" value), so all exact arithmetic is on integers. -/

namespace Sys2Proof.Machine

/-- 1.0 (rule R106: 0x3F800000). -/
def fone : Word := 0x3F800000

/-- 0.0. -/
def fzero : Word := 0x00000000

/-- Sign: bit 31 (rule R62). -/
def isNeg (a : Word) : Bool := a.getLsbD 31

/-- Biased exponent: bits 30:23. -/
def expField (a : Word) : Nat := (a.extractLsb' 23 8).toNat

/-- Fraction: bits 22:0. -/
def fracField (a : Word) : Nat := (a.extractLsb' 0 23).toNat

/-- Exponent and fraction, the magnitude of the pattern. -/
def magnitude (a : Word) : Nat := (a.extractLsb' 0 31).toNat

/-- A not-a-number pattern. -/
def isNaN (a : Word) : Bool := decide (0x7F800000 < magnitude a)

/-- An infinity. -/
def isInf (a : Word) : Bool := decide (magnitude a = 0x7F800000)

/-- Neither an infinity nor a NaN. -/
def isFinite (a : Word) : Bool := decide (magnitude a < 0x7F800000)

/-- +0 or −0. -/
def isZero (a : Word) : Bool := decide (magnitude a = 0)

/-- Finite and > 0, the condition of rule R34 (a), (b) and (d). -/
def isPositive (a : Word) : Bool := isFinite a && !isNeg a && !isZero a

/-- The magnitude of a finite binary32 in units of 2^−149. -/
def scaledMagnitude (a : Word) : Nat :=
  if expField a = 0 then fracField a else (2 ^ 23 + fracField a) * 2 ^ (expField a - 1)

/-- The value of a finite binary32 in units of 2^−149. -/
def scaled (a : Word) : Int :=
  if isNeg a then -(scaledMagnitude a : Int) else (scaledMagnitude a : Int)

/-- The pattern with sign `neg` and magnitude bits `mag`. -/
def withSign (neg : Bool) (mag : Nat) : Word :=
  BitVec.ofNat 32 (if neg then 2 ^ 31 + mag else mag)

/-- The quotient `num / den` rounded to the nearest integer, ties to the even one. -/
def nearestEven (num den : Nat) : Nat :=
  let q := num / den
  let r := num % den
  if den < 2 * r then q + 1
  else if 2 * r = den then q + q % 2
  else q

/-- The magnitude pattern of the binary32 nearest to `num / den` units of 2^−149, ties to even: the
quotient is cut to 24 significant bits, or to a multiple of the unit where it is subnormal, and a
result past the largest finite value is the infinity. -/
def roundedMagnitude (num den : Nat) : Nat :=
  let k := (num / den).log2 - 23
  let pattern := k * 2 ^ 23 + nearestEven num (den * 2 ^ k)
  if pattern < 0x7F800000 then pattern else 0x7F800000

/-- The exact value ± `num / den` units of 2^−149 rounded once to binary32 (rule R12). -/
def roundOnce (neg : Bool) (num den : Nat) : Word := withSign neg (roundedMagnitude num den)

/-- A quiet NaN whose sign and payload are free (log entry 4). -/
def nanResult (a b : Word) : Word := 0x7FC00000 ||| (Config.nanBits a b &&& 0x803FFFFF)

/-- The operand with its sign changed. -/
def fneg (a : Word) : Word := a ^^^ 0x80000000

/-- `fadd(a, b)`. -/
def fadd (a b : Word) : Word :=
  if isNaN a || isNaN b then nanResult a b
  else if isInf a then (if isInf b && isNeg a != isNeg b then nanResult a b else a)
  else if isInf b then b
  else
    let sum := scaled a + scaled b
    if sum = 0 then withSign (isNeg a && isNeg b) 0
    else roundOnce (decide (sum < 0)) sum.natAbs 1

/-- `fsub(a, b)`. -/
def fsub (a b : Word) : Word := fadd a (fneg b)

/-- `fmul(a, b)`. -/
def fmul (a b : Word) : Word :=
  let neg := isNeg a != isNeg b
  if isNaN a || isNaN b then nanResult a b
  else if isInf a || isInf b then
    (if isZero a || isZero b then nanResult a b else withSign neg 0x7F800000)
  else roundOnce neg (scaledMagnitude a * scaledMagnitude b) (2 ^ 149)

/-- `fdiv(a, b)`. -/
def fdiv (a b : Word) : Word :=
  let neg := isNeg a != isNeg b
  if isNaN a || isNaN b then nanResult a b
  else if isInf a then (if isInf b then nanResult a b else withSign neg 0x7F800000)
  else if isInf b then withSign neg 0
  else if isZero b then (if isZero a then nanResult a b else withSign neg 0x7F800000)
  else roundOnce neg (scaledMagnitude a * 2 ^ 149) (scaledMagnitude b)

/-- `fpow_neg(d, i)`: the real d^(−i) rounded once. A `d` that is zero or not finite has no real
power, and the result is a free value (log entry 5). -/
def fpowNeg (d : Word) (i : Nat) : Word :=
  if isFinite d && !isZero d then
    roundOnce (isNeg d && i % 2 == 1) (2 ^ (149 * (i + 1))) (scaledMagnitude d ^ i)
  else Config.powOutside d i

/-- `fint(i)`, exact for every integer the rules use. -/
def fint (i : Nat) : Word := roundOnce false (i * 2 ^ 149) 1

/-- The order of the patterns that are not NaN, with −0 equal to +0. -/
def orderKey (a : Word) : Int := if isNeg a then -(magnitude a : Int) else (magnitude a : Int)

/-- `fgt(a, b)`: the ordered comparison a > b, false if an operand is a NaN. -/
def fgt (a b : Word) : Bool := !isNaN a && !isNaN b && decide (orderKey b < orderKey a)

end Sys2Proof.Machine
end

