-- ==== Sys2Proof/Machine/Pulldown.lean ====
section
/-! DEFINITION. The distance functions and the distance table (rules R100 to R108) and the pulldown
calculator (rules R130 to R136), under the numerics the machine is built with. -/

namespace Sys2Proof.Machine

/-- `DistFn(fn, d, i)` under the reference numerics: rules R101, R102 and R103, the operations in the
order the rules write them. -/
def distanceReference (fn : DistanceFn) (d : Word) (i : Nat) : Word :=
  match fn with
  | .exponential => fpowNeg d i
  | .linear => fdiv fone (fadd fone (fmul (fint i) d))
  | .quadratic => fdiv fone (fadd fone (fmul (fint (i * i)) d))

/-- `DistFn(fn, d, i)` (rule R100) under the numerics in use (rule R10). -/
def distanceFn (n : Numerics) (fn : DistanceFn) (d : Word) (i : Nat) : Word :=
  match n with
  | .reference => distanceReference fn d i
  | .other => Config.otherWeight fn d i

/-- `BuildDT(e)[j]` (rules R105 and R106): index 12 is 1.0 by definition, lower offsets use
`distance1` and higher offsets `distance2`. -/
def distanceEntry (n : Numerics) (e : ParamEntry) (j : Fin 25) : Word :=
  if j.val < 12 then distanceFn n e.fn e.distance1 (12 - j.val)
  else if j.val = 12 then fone
  else distanceFn n e.fn e.distance2 (j.val - 12)

/-- The table index `sb − cb + 12` of the weight of bit `cb` on bit `sb` (rule R108). -/
def weightIndex (sb cb : Fin 12) : Fin 25 := ⟨sb.val + 12 - cb.val, by omega⟩

/-- The bit positions in the ascending order the sums are taken in (rule R132, decision D11). -/
def bitPositions : List (Fin 12) := [0, 1, 2, 3, 4, 5, 6, 7, 8, 9, 10, 11]

/-- `bit[k]`: the phase bit as 1.0 or 0.0, bit 11 scaled by `topbit` (rules R130 and R131). -/
def signal (e : ParamEntry) (p : Phase) (k : Fin 12) : Word :=
  let bit := if p.getLsbD k.val then fone else fzero
  if k = 11 then fmul bit e.topbit else bit

/-- The numerator of bit `sb` before the pulse term (rule R132). -/
def weightedSum (e : ParamEntry) (p : Phase) (sb : Fin 12) : Word :=
  bitPositions.foldl
    (fun avg cb =>
      if cb = sb then avg
      else fadd avg (fmul (fsub fone (signal e p cb)) (distanceEntry .reference e (weightIndex sb cb))))
    fzero

/-- `n`, the sum of the 11 weights used for bit `sb` (rule R132). -/
def weightSum (n : Numerics) (e : ParamEntry) (sb : Fin 12) : Word :=
  match n with
  | .reference =>
    bitPositions.foldl
      (fun sum cb => if cb = sb then sum else fadd sum (distanceEntry .reference e (weightIndex sb cb)))
      fzero
  | .other => Config.otherWeightSum e sb.val

/-- `pd[sb]`, the pulldown fraction (rule R133). -/
def pulldownFraction (e : ParamEntry) (p : Phase) (sb : Fin 12) : Word :=
  fdiv (fsub (weightedSum e p sb) e.pulsestrength) (weightSum .reference e sb)

/-- Whether `1 − pd[sb] > threshold`, the strict comparison of rule R134. -/
def exceedsThreshold (n : Numerics) (e : ParamEntry) (p : Phase) (sb : Fin 12) : Bool :=
  match n with
  | .reference => fgt (fsub fone (pulldownFraction e p sb)) e.threshold
  | .other => Config.otherKeeps e p sb.val

/-- `out[sb]` (rule R134): the source bit is the unscaled phase bit (decision D12). -/
def outputBit (n : Numerics) (e : ParamEntry) (p : Phase) (sb : Fin 12) : Bool :=
  p.getLsbD sb.val && exceedsThreshold n e p sb

/-- The 12 output bits as one sample (rule R135). -/
def assembleBits (out : Fin 12 → Bool) : Sample :=
  bitPositions.foldl (fun value sb => if out sb then value ||| (1#12 <<< sb.val) else value) 0

/-- `PulldownCalc(e, p)` (rule R136). -/
def pulldownCalc (n : Numerics) (e : ParamEntry) (p : Phase) : Sample :=
  assembleBits (outputBit n e p)

end Sys2Proof.Machine
end

