-- ==== Sys2Proof/Machine/Tables.lean ====
section
/-! DEFINITION. The two table stores as plain data (rules R36 and R37): their shapes, their fixed or
built contents, and the reads of one element (rules R60 and R64). -/

namespace Sys2Proof.Machine

/-- One table row: a sample for every phase. -/
abbrev SampleRow := Vector Sample 4096

/-- `BASIC_LUT[k][p]`: 4 kinds (rule R36). -/
abbrev BasicLut := Vector SampleRow 4

/-- The five combined tables of one slot. -/
abbrev SlotTables := Vector SampleRow 5

/-- `COMB_LUT[s][c][p]`: 6 slots (rule R37). -/
abbrev CombLut := Vector SlotTables 6

/-- The vector whose element `i` is `f i`. -/
def tabulate {α : Type} (n : Nat) (f : Fin n → α) : Vector α n :=
  ⟨⟨(List.finRange n).map f⟩, by simp⟩

/-- The row whose element at phase `p` is `f p`. -/
def rowOf (f : Phase → Sample) : SampleRow := tabulate 4096 fun i => f (BitVec.ofFin i)

/-- The element of a row at a phase. A phase is 12 bits, so every phase is inside (rule R61). -/
def sampleAt (row : SampleRow) (p : Phase) : Sample := row[p.toNat]'p.isLt

/-- Rule R190: constant-high. -/
def basicHigh (_ : Phase) : Sample := 0xFFF

/-- Rule R191: the phase folded by its top bit, then shifted left by one (conflict C1). -/
def basicTriangle (p : Phase) : Sample := (if p.getLsbD 11 then p ^^^ 0xFFF else p) <<< 1

/-- Rule R192: the phase unchanged. -/
def basicSawtooth (p : Phase) : Sample := p

/-- Rule R193: the sawtooth AND itself shifted left by one (conflict C4). -/
def basicPulseAndShift (p : Phase) : Sample := p &&& (p <<< 1)

/-- The fixed contents of `BASIC_LUT` (rules R190 to R193, in the order of conflict C3). -/
def basicContents : BasicLut :=
  #v[rowOf basicHigh, rowOf basicTriangle, rowOf basicSawtooth, rowOf basicPulseAndShift]

/-- The contents of a built slot, from the five entries of its model and class (rule R161). -/
def builtTables (n : Numerics) (entries : Vector ParamEntry 5) : SlotTables :=
  tabulate 5 fun c => rowOf (pulldownCalc n entries[c])

/-- The combined store after reset number `epoch`: every element is a free value (rules R37 and R260,
log entry 6). -/
def unspecifiedTables (epoch : Nat) : CombLut :=
  tabulate 6 fun s => tabulate 5 fun c => rowOf fun p => Config.unspecifiedSample epoch s.val c.val p.toNat

end Sys2Proof.Machine
end

