-- ==== Sys2Proof/Machine/State.lean ====
section
/-! DEFINITION. The state of the block (rule R30), the ports and the transfers in flight (rules R80, R81
and R265), the reasons a run of the model can stop, and the state after reset (rule R260). -/

namespace Sys2Proof.Machine

/-- No step of the block stops: rule R232 makes every contract violation a recorded state that the block
goes on from, and rule R140 excludes numeric faults. So no reason exists, nothing raises one, and
there is nothing safe or unsafe about it. -/
inductive Fault where
  deriving DecidableEq, Repr

/-- Why the model gives no meaning. -/
inductive Refusal where
  /-- Raised by an arm of `exec` whose command has no meaning yet. Safe: nothing can be proved of it. -/
  | notModelled (mnemonic : String)
  /-- Raised by `powerOn`, never by a step: an argument that breaks rule R34 or R10 is refused as a
  whole (rule R104). Safe: nothing can be proved of it. -/
  | paramsNotAdmitted
  deriving DecidableEq, Repr

/-- `FAULT_CAUSE` (rule R230). Codes 7 to 15 are never produced, so they have no constructor. -/
inductive FaultCause where
  | noFault
  | illegalOp
  | reservedNonzero
  | badVclass
  | badSel
  | badIdx
  | notBuilt
  deriving DecidableEq, Repr, Inhabited

/-- `rsp_status` (rule R81). Code 3 is never produced. -/
inductive RspStatus where
  /-- The command was performed. -/
  | ok
  /-- This command broke a contract rule. -/
  | fault
  /-- The block was already faulted. -/
  | faulted
  deriving DecidableEq, Repr, Inhabited

/-- A response: `rsp_status` and `rsp_data` (rule R81). -/
structure Response where
  status : RspStatus
  data   : Word
  deriving DecidableEq, Repr, Inhabited

/-- One client port (rule R80), as the transfers on it: each list is oldest first. -/
structure Port where
  /-- The words the client offers and the block has not accepted: the head is `cmd_word` and
  `cmd_valid` is 1 while there is one. -/
  offers    : List Word
  /-- Commands accepted and not performed. -/
  accepted  : List Word
  /-- Responses produced and not delivered: the head is on `rsp_status` and `rsp_data`, and
  `rsp_valid` is 1 while there is one. -/
  responses : List Response
  /-- The model's own record of what the client has received. -/
  delivered : List Response
  deriving DecidableEq, Repr, Inhabited

/-- The command being performed: the port it came from and its word (rule R13, `raise Fault` records
the word and the response goes to the port). -/
structure Command where
  port : Nat
  word : Word
  deriving DecidableEq, Repr, Inhabited

/-- What can happen next (rules R67, R80 and R260). -/
inductive Event where
  /-- A cycle in which the port's `cmd_valid` meets a `cmd_ready` of the block. -/
  | accept (port : Nat)
  /-- The arbiter performs the port's oldest accepted command. -/
  | perform (port : Nat)
  /-- A cycle in which the port's `rsp_valid` meets the client's `rsp_ready`. -/
  | deliver (port : Nat)
  /-- `rst` is asserted and released. -/
  | reset
  deriving DecidableEq, Repr

/-- The state of the block: plain data. -/
structure State where
  /-- The OPEN parameters, `PARAM_ROM` among them: constant (rules R10, R30, R32). -/
  params     : Params
  /-- `BASIC_LUT`: constant (rules R36 and R194). -/
  basicLut   : BasicLut
  /-- `COMB_LUT` (rule R37). -/
  combLut    : CombLut
  /-- `BUILT[5:0]` (rule R38). -/
  built      : BitVec 6
  /-- `BUILD_COUNT` (rule R39). -/
  buildCount : BitVec 3
  /-- `FAULT` (rule R40). -/
  fault      : Bool
  /-- `FAULT_CAUSE` (rules R40 and R230). -/
  faultCause : FaultCause
  /-- `FAULT_WORD` (rule R40). -/
  faultWord  : Word
  /-- The N_PORTS client ports (rules R80 and R239). -/
  ports      : List Port
  /-- The command being performed: transient, no command reads it (log entry 7). -/
  cmd        : Command
  /-- The order in which the clients, the arbiter and reset act, next first: OPEN, so a claim holds for
  every list (rule R67, log entry 8). After the last one the block makes the moves it owes. -/
  events     : List Event
  /-- How many resets have happened: the model's own counter, which draws the unspecified contents of
  `COMB_LUT` afresh at each (log entry 6). -/
  resetEpoch : Nat
  /-- How many owed moves the block has made with nothing scheduled: the model's own counter, which draws
  the arbiter's choice afresh at each (log entry 20). -/
  arbiterDraws : Nat
  deriving DecidableEq, Repr

/-- A port with nothing on it. -/
def Port.idle : Port := ⟨[], [], [], []⟩

/-- The state right after reset (rule R260), with nothing offered and nothing scheduled. -/
def State.reset : State where
  params := Config.params
  basicLut := basicContents
  combLut := unspecifiedTables 0
  built := 0
  buildCount := 0
  fault := false
  faultCause := .noFault
  faultWord := 0
  ports := Port.idle :: List.replicate Config.furtherPorts Port.idle
  cmd := ⟨0, 0⟩
  events := []
  resetEpoch := 0
  arbiterDraws := 0

end Sys2Proof.Machine
end

