-- ==== Sys2Proof/Machine/Operands.lean ====
section
/-! DEFINITION. Every operand form: the codes of the closed sets (rules R10, R83 and R230) and the
resolution of a field to the element it names, or to the cause of its range fault (rules R88 and R231). -/

namespace Sys2Proof.Machine

/-- The index of a chip model in `PARAM_ROM` (decision D5). -/
def modelIndex : ChipModel → Fin 2
  | .mos6581 => 0
  | .mos8580 => 1

/-- The index of a variance class in `PARAM_ROM` (decision D6). -/
def vclassIndex : VClass → Fin 3
  | .average => 0
  | .weak => 1
  | .strong => 2

/-- The index of a combination in a slot's tables (rule R10). -/
def combIndex : Comb → Fin 5
  | .ts => 0
  | .pt => 1
  | .ps => 2
  | .pts => 3
  | .np => 4

/-- The row of a basic kind in `BASIC_LUT` (rule R36). -/
def kindIndex : BasicKind → Fin 4
  | .high => 0
  | .tri => 1
  | .saw => 2
  | .pas => 3

/-- The slot `s = 3·M + V` of a model and class (rule R160). -/
def slotIndex (m : ChipModel) (v : VClass) : Fin 6 :=
  ⟨3 * (modelIndex m).val + (vclassIndex v).val, by omega⟩

/-- The code of a distance function (rule R32, decision D33). -/
def distanceCode : DistanceFn → BitVec 2
  | .exponential => 0
  | .linear => 1
  | .quadratic => 2

/-- The code of a fault cause (rule R230). -/
def causeCode : FaultCause → BitVec 4
  | .noFault => 0
  | .illegalOp => 1
  | .reservedNonzero => 2
  | .badVclass => 3
  | .badSel => 4
  | .badIdx => 5
  | .notBuilt => 6

/-- The code of a response status (rule R81). -/
def statusCode : RspStatus → BitVec 2
  | .ok => 0
  | .fault => 1
  | .faulted => 2

/-- Field V as a variance class: code 3 is BAD_VCLASS. -/
def vclassOperand (v : BitVec 2) : Except FaultCause VClass :=
  match v.toNat with
  | 0 => .ok .average
  | 1 => .ok .weak
  | 2 => .ok .strong
  | _ => .error .badVclass

/-- Field SEL as a combination: codes 5 to 7 are BAD_SEL. -/
def combOperand (sel : BitVec 3) : Except FaultCause Comb :=
  match sel.toNat with
  | 0 => .ok .ts
  | 1 => .ok .pt
  | 2 => .ok .ps
  | 3 => .ok .pts
  | 4 => .ok .np
  | _ => .error .badSel

/-- Field SEL of RDBASIC as a basic kind: codes 4 to 7 are BAD_SEL. -/
def kindOperand (sel : BitVec 3) : Except FaultCause BasicKind :=
  match sel.toNat with
  | 0 => .ok .high
  | 1 => .ok .tri
  | 2 => .ok .saw
  | 3 => .ok .pas
  | _ => .error .badSel

/-- Field IDX of RDPARAM as a parameter field: codes above 5 are BAD_IDX. -/
def fieldOperand (idx : BitVec 5) : Except FaultCause ParamField :=
  match idx.toNat with
  | 0 => .ok .fn
  | 1 => .ok .threshold
  | 2 => .ok .topbit
  | 3 => .ok .pulsestrength
  | 4 => .ok .distance1
  | 5 => .ok .distance2
  | _ => .error .badIdx

/-- Field IDX of RDDIST as an index of the distance table: codes above 24 are BAD_IDX. -/
def weightOperand (idx : BitVec 5) : Except FaultCause (Fin 25) :=
  if h : idx.toNat < 25 then .ok ⟨idx.toNat, h⟩ else .error .badIdx

/-- `PARAM_ROM[m][v][c]` (rule R33). -/
def romEntry (rom : ParamRom) (m : ChipModel) (v : VClass) (c : Comb) : ParamEntry :=
  rom[modelIndex m][vclassIndex v][combIndex c]

/-- The field a parameter read returns: the code zero-extended, or the pattern (rule R109). -/
def fieldData (e : ParamEntry) : ParamField → Word
  | .fn => (distanceCode e.fn).setWidth 32
  | .threshold => e.threshold
  | .topbit => e.topbit
  | .pulsestrength => e.pulsestrength
  | .distance1 => e.distance1
  | .distance2 => e.distance2

/-- A sample as response data: `zext_32` (rule R62). -/
def sampleData (v : Sample) : Word := v.setWidth 32

end Sys2Proof.Machine
end

