-- ==== Sys2Proof/Machine/Flags.lean ====
section
/-! DEFINITION. The status state as software sees it: the `BUILT` bits, the BUILD response and the STATUS
view (rules R38, R39, R41 and R162). The block has no condition codes (rule R31). -/

namespace Sys2Proof.Machine

/-- `BUILT[s]` (rule R38). -/
def builtBit (built : BitVec 6) (slot : Fin 6) : Bool := built.getLsbD slot.val

/-- `BUILT` with bit `s` set. -/
def setBuilt (built : BitVec 6) (slot : Fin 6) : BitVec 6 := built ||| (1#6 <<< slot.val)

/-- The number of 1 bits of `BUILT` (rule R163). -/
def builtTotal (built : BitVec 6) : Nat := (List.range 6).countP fun s => built.getLsbD s

/-- The data of a BUILD response: bits 2:0 the slot, bit 8 HIT (rule R162, decision D29). -/
def buildData (slot : Fin 6) (hit : Bool) : Word :=
  (BitVec.ofBool hit).setWidth 32 <<< 8 ||| BitVec.ofNat 32 slot.val

/-- The STATUS view `{FAULT_CAUSE, 000b, FAULT, 00000b, BUILD_COUNT, 00b, BUILT[5:0]}`, zero-extended
(rule R41). -/
def State.statusView (s : State) : Word :=
  (causeCode s.faultCause ++ (0 : BitVec 3) ++ BitVec.ofBool s.fault ++ (0 : BitVec 5) ++ s.buildCount
    ++ (0 : BitVec 2) ++ s.built).setWidth 32

end Sys2Proof.Machine
end

