-- ==== Sys2Proof/Machine/Ops.lean ====
section
/-! DEFINITION. The operations every command is built from: reading and filling the stores, the response,
fault entry and its only way out, reset (rules R232 to R234 and R260), and the transfers on a port
(rules R80, R261 and R265). -/

namespace Sys2Proof.Machine

/-- Change one port. A number that names no port changes nothing. -/
def State.modifyPort (s : State) (p : Nat) (f : Port → Port) : State :=
  { s with ports := s.ports.modify p f }

/-- `respond(status, data)` (rules R13 and R81): the response joins the port of the command being
performed, behind the responses already there. -/
def State.respond (s : State) (status : RspStatus) (data : Word) : State :=
  s.modifyPort s.cmd.port fun port => { port with responses := port.responses ++ [⟨status, data⟩] }

/-- `raise Fault(cause)`: fault entry (rule R232). -/
def State.raiseFault (s : State) (cause : FaultCause) : State :=
  { s with fault := true, faultCause := cause, faultWord := s.cmd.word }.respond .fault
    ((causeCode cause).setWidth 32)

/-- The response of a faulted block, without effect (rule R233). -/
def State.respondFaulted (s : State) : State := s.respond .faulted 0

/-- The lock-out of rule R233: while `FAULT` = 1 the command is not checked and not performed. -/
def State.unlessFaulted (s : State) (t : State) : State := if s.fault then s.respondFaulted else t

/-- A read: the data it returns, or the cause it faults with. -/
def State.answer (s : State) : Except FaultCause Word → State
  | .ok data => s.respond .ok data
  | .error cause => s.raiseFault cause

/-- A word that is no command (rules R85 and R86, steps 1 and 3 of rule R231). -/
def State.rejectWord (s : State) (e : DecodeError) : State :=
  s.unlessFaulted (s.raiseFault (match e with
    | .illegalOp => .illegalOp
    | .reservedNonzero => .reservedNonzero))

/-- The entry that M, V and SEL name: V is checked before SEL (steps 4 and 5 of rule R231). -/
def State.entryOperand (s : State) (m : ChipModel) (v : BitVec 2) (sel : BitVec 3) :
    Except FaultCause ParamEntry :=
  match vclassOperand v with
  | .error cause => .error cause
  | .ok v =>
    match combOperand sel with
    | .error cause => .error cause
    | .ok c => .ok (romEntry s.params.paramRom m v c)

/-- `BASIC_LUT[k][p]` (rule R36). -/
def State.readBasic (s : State) (k : BasicKind) (p : Phase) : Sample :=
  sampleAt s.basicLut[kindIndex k] p

/-- `COMB_LUT[s][c][p]` (rule R37). -/
def State.readComb (s : State) (slot : Fin 6) (c : Comb) (p : Phase) : Sample :=
  sampleAt s.combLut[slot][combIndex c] p

/-- Fill a slot and mark it built: the state written by a BUILD that misses (rule R162). -/
def State.fillSlot (s : State) (m : ChipModel) (v : VClass) : State :=
  { s with
    combLut := s.combLut.set (slotIndex m v).val
      (builtTables s.params.numerics s.params.paramRom[modelIndex m][vclassIndex v]) (slotIndex m v).isLt
    built := setBuilt s.built (slotIndex m v)
    buildCount := s.buildCount + 1 }

/-- Responses and commands on a port that the client still waits for (rule R265). -/
def Port.outstanding (port : Port) : Nat := port.accepted.length + port.responses.length

/-- `cmd_valid` (rule R80). -/
def Port.cmdValid (port : Port) : Bool := !port.offers.isEmpty

/-- `cmd_word`, while `cmd_valid` is 1. -/
def Port.cmdWord (port : Port) : Option Word := port.offers.head?

/-- The block may raise `cmd_ready`: it keeps the port within `MAX_OUTSTANDING` (rule R265). -/
def Port.mayAccept (port : Port) (limit : Nat) : Bool := decide (port.outstanding < limit)

/-- `rsp_valid` (rule R80). -/
def Port.rspValid (port : Port) : Bool := !port.responses.isEmpty

/-- `rsp_status` and `rsp_data`, while `rsp_valid` is 1. -/
def Port.rspHead (port : Port) : Option Response := port.responses.head?

/-- The word the client offers is accepted, if it offers one and the block may accept it. -/
def Port.acceptOffer (port : Port) (limit : Nat) : Port :=
  match port.offers with
  | [] => port
  | w :: rest =>
    if port.mayAccept limit then { port with offers := rest, accepted := port.accepted ++ [w] }
    else port

/-- The oldest response is delivered, if there is one. -/
def Port.deliverResponse (port : Port) : Port :=
  match port.responses with
  | [] => port
  | r :: rest => { port with responses := rest, delivered := port.delivered ++ [r] }

/-- The block owes the port an acceptance: `cmd_ready` is low for a finite time only (rule R265). -/
def Port.owedAccept (port : Port) (limit : Nat) : Bool := port.cmdValid && port.mayAccept limit

/-- The block owes the port a response: a command is accepted and the client has taken every response
before it (rule R266). -/
def Port.owedResponse (port : Port) : Bool := !port.accepted.isEmpty && port.responses.isEmpty

/-- The moves the block owes port `p`. -/
def Port.owedMoves (port : Port) (limit p : Nat) : List Event :=
  (if port.owedAccept limit then [.accept p] else []) ++ (if port.owedResponse then [.perform p] else [])

/-- Everything in flight on the port is lost (rule R261). What the client has not yet handed over, and
what it has received, is not the block's. -/
def Port.discardInFlight (port : Port) : Port := { port with accepted := [], responses := [] }

/-- The head of the schedule has happened. -/
def State.advance (s : State) (rest : List Event) : State := { s with events := rest }

/-- The moves the block owes, port by port. -/
def State.owedMoves (s : State) : List Event :=
  s.ports.zipIdx.flatMap fun (port, p) => port.owedMoves s.params.maxOutstanding p

/-- The owed move the arbiter chooses: a free choice, and none only where none is owed (rules R67 and
R266, log entry 20). -/
def State.ownMove (s : State) : Option Event :=
  s.owedMoves[Config.arbiterPick s.arbiterDraws % s.owedMoves.length]?

/-- The arbiter has chosen. -/
def State.drawArbiter (s : State) : State := { s with arbiterDraws := s.arbiterDraws + 1 }

/-- The word `w`, the oldest accepted one of port `p`, leaves the queue and becomes the command. -/
def State.takeUp (s : State) (p : Nat) (port : Port) (w : Word) (rest : List Word) : State :=
  { s with
    ports := s.ports.set p { port with accepted := rest }
    cmd := ⟨p, w⟩ }

/-- The port's oldest accepted command is taken up for performing, if there is one. -/
def State.takeCommand (s : State) (p : Nat) : Option State :=
  match s.ports[p]? with
  | none => none
  | some port =>
    match port.accepted with
    | [] => none
    | w :: rest => some (s.takeUp p port w rest)

/-- Reset (rules R260 and R261): the only way out of the faulted state (rule R234). The parameters and
`BASIC_LUT` are constant. -/
def State.resetBlock (s : State) : State :=
  { s with
    combLut := unspecifiedTables (s.resetEpoch + 1)
    built := 0
    buildCount := 0
    fault := false
    faultCause := .noFault
    faultWord := 0
    ports := s.ports.map Port.discardInFlight
    cmd := ⟨0, 0⟩
    resetEpoch := s.resetEpoch + 1 }

end Sys2Proof.Machine
end

