-- ==== Sys2Proof/Machine/Basic.lean ====
section
/-! DEFINITION. RDBASIC, the read of a basic waveform sample (44_basic_tables.md). -/

namespace Sys2Proof.Machine

/-- RDBASIC (rule R195). -/
def execRdbasic (sel : BitVec 3) (phase : Phase) (s : State) : Host.Outcome State Fault Refusal :=
  .next (s.unlessFaulted (s.answer ((kindOperand sel).map fun k => sampleData (s.readBasic k phase))))

end Sys2Proof.Machine
end

