-- ==== Sys2Proof/Machine/Cache.lean ====
section
/-! DEFINITION. The build-once cache of combined tables: BUILD and RDCOMB (43_table_cache.md). -/

namespace Sys2Proof.Machine

/-- The body of BUILD after its checks: a hit changes no table, a miss fills the slot (rule R162). -/
def State.buildOrHit (s : State) (m : ChipModel) (v : VClass) : State :=
  if builtBit s.built (slotIndex m v) then s.respond .ok (buildData (slotIndex m v) true)
  else (s.fillSlot m v).respond .ok (buildData (slotIndex m v) false)

/-- BUILD (rule R162). -/
def execBuild (m : ChipModel) (v : BitVec 2) (s : State) : Host.Outcome State Fault Refusal :=
  .next (s.unlessFaulted (match vclassOperand v with
    | .error cause => s.raiseFault cause
    | .ok v => s.buildOrHit m v))

/-- What RDCOMB reads, or why it cannot: V, then SEL, then `BUILT` (steps 4, 5 and 7 of rule R231). -/
def State.combOperands (s : State) (m : ChipModel) (v : BitVec 2) (sel : BitVec 3) (phase : Phase) :
    Except FaultCause Word :=
  match vclassOperand v with
  | .error cause => .error cause
  | .ok v =>
    match combOperand sel with
    | .error cause => .error cause
    | .ok c =>
      if builtBit s.built (slotIndex m v) then .ok (sampleData (s.readComb (slotIndex m v) c phase))
      else .error .notBuilt

/-- RDCOMB (rule R165). -/
def execRdcomb (m : ChipModel) (v : BitVec 2) (sel : BitVec 3) (phase : Phase) (s : State) :
    Host.Outcome State Fault Refusal :=
  .next (s.unlessFaulted (s.answer (s.combOperands m v sel phase)))

end Sys2Proof.Machine
end

