-- ==== Sys2Proof/Machine/Calculator.lean ====
section
/-! DEFINITION. CALC, the pulldown calculator evaluated directly (42_pulldown.md). -/

namespace Sys2Proof.Machine

/-- CALC (rule R139). -/
def execCalc (m : ChipModel) (v : BitVec 2) (sel : BitVec 3) (phase : Phase) (s : State) :
    Host.Outcome State Fault Refusal :=
  .next (s.unlessFaulted (s.answer ((s.entryOperand m v sel).map fun e =>
    sampleData (pulldownCalc s.params.numerics e phase))))

end Sys2Proof.Machine
end

