-- ==== Sys2Proof/Machine/Control.lean ====
section
/-! DEFINITION. The control and status commands of 45_control.md. None of them faults, and none is
refused while the block is faulted (rule R87). -/

namespace Sys2Proof.Machine

/-- NOP (rule R210). -/
def execNop (s : State) : Host.Outcome State Fault Refusal := .next (s.respond .ok 0)

/-- STATUS (rule R211). -/
def execStatus (s : State) : Host.Outcome State Fault Refusal := .next (s.respond .ok s.statusView)

/-- RDFAULT (rule R212). -/
def execRdfault (s : State) : Host.Outcome State Fault Refusal := .next (s.respond .ok s.faultWord)

end Sys2Proof.Machine
end

