-- ==== Sys2Proof/Machine/ParamReads.lean ====
section
/-! DEFINITION. RDPARAM and RDDIST, the reads of a parameter entry and of its distance table
(41_distance_params.md). -/

namespace Sys2Proof.Machine

/-- RDPARAM (rule R109): V, SEL and IDX are checked in this order. -/
def execRdparam (m : ChipModel) (v : BitVec 2) (sel : BitVec 3) (idx : BitVec 5) (s : State) :
    Host.Outcome State Fault Refusal :=
  .next (s.unlessFaulted (s.answer (match s.entryOperand m v sel with
    | .error cause => .error cause
    | .ok e => (fieldOperand idx).map (fieldData e))))

/-- RDDIST (rule R110): V, SEL and IDX are checked in this order. -/
def execRddist (m : ChipModel) (v : BitVec 2) (sel : BitVec 3) (idx : BitVec 5) (s : State) :
    Host.Outcome State Fault Refusal :=
  .next (s.unlessFaulted (s.answer (match s.entryOperand m v sel with
    | .error cause => .error cause
    | .ok e => (weightOperand idx).map (distanceEntry s.params.numerics e))))

end Sys2Proof.Machine
end

