-- ==== Sys2Proof/Machine/Dispatch.lean ====
section
/-! DEFINITION. The meaning of every command, one arm each. -/

namespace Sys2Proof.Machine

def exec (i : Instr) (s : State) : Host.Outcome State Fault Refusal :=
  match i with
  | .nop => Sys2Proof.Machine.execNop s
  | .status => Sys2Proof.Machine.execStatus s
  | .rdbasic sel phase => Sys2Proof.Machine.execRdbasic sel phase s
  | .build m v => Sys2Proof.Machine.execBuild m v s
  | .rdcomb m v sel phase => Sys2Proof.Machine.execRdcomb m v sel phase s
  | .calculate m v sel phase => Sys2Proof.Machine.execCalc m v sel phase s
  | .rdparam m v sel idx => Sys2Proof.Machine.execRdparam m v sel idx s
  | .rddist m v sel idx => Sys2Proof.Machine.execRddist m v sel idx s
  | .rdfault => Sys2Proof.Machine.execRdfault s

end Sys2Proof.Machine
end

