-- ==== Sys2Proof/Machine/Events.lean ====
section
/-! DEFINITION. What each event does: the performing of one command word (rule R231) and the transfers and
reset around it (rules R67, R80, R261 and R265). -/

namespace Sys2Proof.Machine

/-- Perform the command taken up: decode its word and run it, or reject it (rule R231). -/
def runCommand (s : State) : Host.Outcome State Fault Refusal :=
  match decode s.cmd.word with
  | .ok i => exec i s
  | .error e => .next (s.rejectWord e)

/-- One event. An event that its port cannot take (nothing offered, nothing accepted, nothing to deliver,
no such port) leaves the ports as they are. -/
def stepEvent (e : Event) (s : State) : Host.Outcome State Fault Refusal :=
  match e with
  | .accept p => .next (s.modifyPort p fun port => port.acceptOffer s.params.maxOutstanding)
  | .perform p =>
    match s.takeCommand p with
    | none => .next s
    | some t => runCommand t
  | .deliver p => .next (s.modifyPort p Port.deliverResponse)
  | .reset => .next s.resetBlock

/-- The word placed as the oldest accepted command of port 0. -/
def placeAccepted (w : Word) : List Port → List Port
  | [] => [{ Port.idle with accepted := [w] }]
  | port :: ports => { port with accepted := w :: port.accepted } :: ports

end Sys2Proof.Machine
end

