-- ==== Sys2Proof/Machine/Step.lean ====
section
/-! DEFINITION. One step: the next event of the clients, the arbiter or reset (rules R14 and R67). -/

namespace Sys2Proof.Machine

/-- One step: the next event, or with nothing scheduled a move that the block owes (rule R266). With
nothing owed it stays as it is: the block executes no program of its own (rule R31). -/
def step (s : State) : Host.Outcome State Fault Refusal :=
  match s.events with
  | [] =>
    match s.ownMove with
    | none => .next s
    | some e => stepEvent e s.drawArbiter
  | e :: rest => stepEvent e (s.advance rest)

/-- The word placed where the next step performs it: accepted on port 0, and that port next. -/
def State.withFetchWord (s : State) (nbits w : Nat) : State :=
  { s with
    ports := placeAccepted (tableWord nbits w) s.ports
    events := .perform 0 :: s.events }

end Sys2Proof.Machine
end

