-- ==== Sys2Proof/Machine/Assembler.lean ====
section
/-! DEFINITION. The assembler forms of rule R90 and the pseudo-commands of rule R91, as the commands they
stand for. The block itself sees command words only. -/

namespace Sys2Proof.Machine

/-- Field V of a variance class. -/
def vclassCode (v : VClass) : BitVec 2 := BitVec.ofNat 2 (vclassIndex v).val

/-- Field SEL of a combination. -/
def combCode (c : Comb) : BitVec 3 := BitVec.ofNat 3 (combIndex c).val

/-- Field SEL of a basic kind. -/
def kindCode (k : BasicKind) : BitVec 3 := BitVec.ofNat 3 (kindIndex k).val

/-- Field IDX of a parameter field (rule R90). -/
def fieldCode : ParamField → BitVec 5
  | .fn => 0
  | .threshold => 1
  | .topbit => 2
  | .pulsestrength => 3
  | .distance1 => 4
  | .distance2 => 5

/-- The forms of rule R90: operands are tokens, not codes, and a phase or an index is a number of its
field's width, in range or not (log entry 21). -/
inductive AsmForm where
  | nop
  | status
  | rdfault
  | rdbasic (k : BasicKind) (phase : Phase)
  | build (m : ChipModel) (v : VClass)
  | rdcomb (m : ChipModel) (v : VClass) (c : Comb) (phase : Phase)
  | calculate (m : ChipModel) (v : VClass) (c : Comb) (phase : Phase)
  | rdparam (m : ChipModel) (v : VClass) (c : Comb) (field : ParamField)
  | rddist (m : ChipModel) (v : VClass) (c : Comb) (index : BitVec 5)
  deriving DecidableEq, Repr

/-- The command a form writes: 0 in every field it does not name (`encode`). -/
def assemble : AsmForm → Instr
  | .nop => .nop
  | .status => .status
  | .rdfault => .rdfault
  | .rdbasic k phase => .rdbasic (kindCode k) phase
  | .build m v => .build m (vclassCode v)
  | .rdcomb m v c phase => .rdcomb m (vclassCode v) (combCode c) phase
  | .calculate m v c phase => .calculate m (vclassCode v) (combCode c) phase
  | .rdparam m v c field => .rdparam m (vclassCode v) (combCode c) (fieldCode field)
  | .rddist m v c index => .rddist m (vclassCode v) (combCode c) index

/-- The pseudo-commands of rule R91. -/
inductive PseudoCommand where
  | lookup (m : ChipModel) (v : VClass) (c : Comb) (phase : Phase)
  | rdhigh (phase : Phase)
  | rdtri (phase : Phase)
  | rdsaw (phase : Phase)
  | rdpas (phase : Phase)
  | rdweight (m : ChipModel) (v : VClass) (c : Comb) (offset : Int)
  deriving DecidableEq, Repr

/-- The expansion of a pseudo-command (rule R91): none for an RDWEIGHT offset outside −12..+12. -/
def expand : PseudoCommand → Option (List Instr)
  | .lookup m v c phase => some [assemble (.build m v), assemble (.rdcomb m v c phase)]
  | .rdhigh phase => some [assemble (.rdbasic .high phase)]
  | .rdtri phase => some [assemble (.rdbasic .tri phase)]
  | .rdsaw phase => some [assemble (.rdbasic .saw phase)]
  | .rdpas phase => some [assemble (.rdbasic .pas phase)]
  | .rdweight m v c offset =>
    if -12 ≤ offset ∧ offset ≤ 12 then
      some [assemble (.rddist m v c (BitVec.ofNat 5 (offset + 12).toNat))]
    else none

end Sys2Proof.Machine
end

