-- ==== Sys2Proof/Machine/Admission.lean ====
section
/-! DEFINITION. Which OPEN parameters are admitted (rules R10 and R34), and the machine built from them.
An argument that is not admitted is refused as a whole, so no command checks it (rule R104). -/

namespace Sys2Proof.Machine

/-- Condition (a) of rule R34: both distances are finite and > 0. -/
def distancesAdmitted (e : ParamEntry) : Bool := isPositive e.distance1 && isPositive e.distance2

/-- Condition (b) of rule R34: each of the 25 weights is finite and > 0, and each weight sum is finite
and nonzero. -/
def weightsAdmitted (n : Numerics) (e : ParamEntry) : Bool :=
  (List.finRange 25).all (fun j => isPositive (distanceEntry n e j))
    && bitPositions.all fun sb => isFinite (weightSum n e sb) && !isZero (weightSum n e sb)

/-- Conditions (c) and (d) of rule R34: the other numbers are finite, `topbit` > 0 and `threshold` ≥ 0. -/
def numbersAdmitted (e : ParamEntry) : Bool :=
  isFinite e.threshold && isFinite e.topbit && isFinite e.pulsestrength
    && isPositive e.topbit && (!isNeg e.threshold || isZero e.threshold)

/-- Condition (e) of rule R34: a TS entry has `pulsestrength` = 0. The pattern is 0x00000000, as vector
S16 reads it (log entry 9). -/
def tsPulseAdmitted (c : Comb) (e : ParamEntry) : Bool := c != .ts || e.pulsestrength == 0

/-- Conditions (a) to (e) of rule R34 on one entry. -/
def entryAdmitted (n : Numerics) (c : Comb) (e : ParamEntry) : Bool :=
  distancesAdmitted e && weightsAdmitted n e && numbersAdmitted e && tsPulseAdmitted c e

/-- Condition (f) of rule R34: the AVERAGE tables of the two models differ in an element. -/
def modelsDiffer (n : Numerics) (rom : ParamRom) : Bool :=
  [Comb.ts, .pt, .ps, .pts, .np].any fun c =>
    (List.range 4096).any fun p =>
      pulldownCalc n (romEntry rom .mos6581 .average c) (BitVec.ofNat 12 p)
        != pulldownCalc n (romEntry rom .mos8580 .average c) (BitVec.ofNat 12 p)

/-- All conditions of rule R34. -/
def romAdmitted (n : Numerics) (rom : ParamRom) : Bool :=
  ([ChipModel.mos6581, .mos8580].all fun m => [VClass.average, .weak, .strong].all fun v =>
    [Comb.ts, .pt, .ps, .pts, .np].all fun c => entryAdmitted n c (romEntry rom m v c))
    && modelsDiffer n rom

/-- The parameters a machine is built from: the ROM of rule R34 and MAX_OUTSTANDING ≥ 1 (rule R10). -/
def paramsAdmitted (p : Params) : Bool := romAdmitted p.numerics p.paramRom && decide (1 ≤ p.maxOutstanding)

/-- The machine with parameters `p` and `n` ports, right after reset; refused where rule R34 or rule R10
does not admit them. -/
def powerOn (p : Params) (n : Nat) : Host.Outcome State Fault Refusal :=
  if paramsAdmitted p && decide (1 ≤ n) then
    .next { State.reset with params := p, ports := List.replicate n Port.idle }
  else .refused .paramsNotAdmitted

end Sys2Proof.Machine
end

