-- ==== Sys2Proof/Safety.lean ====
section
/-! DEFINITION. The terms claims are stated in: the consistent states of the block, what a command leaves as
it was, and what it means that a binary32 result is an exact value rounded once. -/

namespace Sys2Proof.Machine

/-- While a slot is built, its tables are the calculator's function of its five entries (rule R161). -/
def State.BuiltSlotsHold (s : State) : Prop :=
  ∀ (m : ChipModel) (v : VClass), builtBit s.built (slotIndex m v) = true →
    ∀ (c : Comb) (p : Phase),
      s.readComb (slotIndex m v) c p
        = pulldownCalc s.params.numerics (romEntry s.params.paramRom m v c) p

/-- `BASIC_LUT` holds the contents of rules R190 to R193. -/
def State.BasicTablesHold (s : State) : Prop :=
  ∀ p : Phase, s.readBasic .high p = 0xFFF ∧ s.readBasic .tri p = basicTriangle p
    ∧ s.readBasic .saw p = p ∧ s.readBasic .pas p = p &&& (p <<< 1)

/-- `BUILD_COUNT` is the number of 1 bits in `BUILT` (rule R163). -/
def State.CountHolds (s : State) : Prop := s.buildCount.toNat = builtTotal s.built

/-- The fault registers agree (rules R40 and R212): `FAULT_CAUSE` = 0 exactly when `FAULT` = 0, and
`FAULT_WORD` = 0 while `FAULT` = 0. -/
def State.FaultHolds (s : State) : Prop :=
  (s.fault = false ↔ s.faultCause = .noFault) ∧ (s.fault = false → s.faultWord = 0)

/-- Every port keeps within MAX_OUTSTANDING (rule R265). -/
def State.PortsHold (s : State) : Prop :=
  ∀ port ∈ s.ports, port.outstanding ≤ s.params.maxOutstanding

/-- The invariant of the block: what its rules say of every state a run reaches. -/
structure State.Consistent (s : State) : Prop where
  tables : s.BuiltSlotsHold
  basic  : s.BasicTablesHold
  count  : s.CountHolds
  faults : s.FaultHolds
  ports  : s.PortsHold

/-! ### What stays as it was -/

/-- The constants (rule R30) and the model's own bookkeeping are the same in both states. -/
structure State.SameSetting (s t : State) : Prop where
  params     : t.params = s.params
  basicLut   : t.basicLut = s.basicLut
  cmd        : t.cmd = s.cmd
  events     : t.events = s.events
  resetEpoch : t.resetEpoch = s.resetEpoch
  arbiterDraws : t.arbiterDraws = s.arbiterDraws

/-- The combined store, `BUILT` and `BUILD_COUNT` are the same in both states. -/
structure State.SameTables (s t : State) : Prop where
  combLut    : t.combLut = s.combLut
  built      : t.built = s.built
  buildCount : t.buildCount = s.buildCount

/-- The fault registers are the same in both states. -/
structure State.SameFault (s t : State) : Prop where
  fault      : t.fault = s.fault
  faultCause : t.faultCause = s.faultCause
  faultWord  : t.faultWord = s.faultWord

/-- From `s` to `t` the port of the command gets the one response `r`, behind those it has, and nothing
else on any port changes (rule R80). -/
structure State.Responds (s t : State) (r : Response) : Prop where
  count  : t.ports.length = s.ports.length
  others : ∀ q, q ≠ s.cmd.port → t.ports[q]? = s.ports[q]?
  own    : ∀ port, s.ports[s.cmd.port]? = some port →
    t.ports[s.cmd.port]? = some { port with responses := port.responses ++ [r] }

/-- Two states that differ at most in the contents of slots that are not built. -/
structure State.AgreeOnBuilt (s t : State) : Prop where
  rest   : t = { s with combLut := t.combLut }
  tables : ∀ k : Fin 6, builtBit s.built k = true → t.combLut[k] = s.combLut[k]

/-! ### Runs and fairness (rules R67 and R266) -/

/-- An infinite run of the block: at every step the outside world and the arbiter choose the next event. -/
def IsRun (run : Nat → State) (choice : Nat → Event) : Prop :=
  ∀ n, step { run n with events := [choice n] } = .next (run (n + 1))

/-- Weak fairness on the block's response step for port `p` (rule R266): the block does not leave a response
that it owes the port owed for ever without performing the port's oldest command. -/
def WeaklyFair (run : Nat → State) (choice : Nat → Event) (p : Nat) : Prop :=
  ∀ n, ∃ m, n ≤ m ∧ (choice m = .perform p
    ∨ ∀ port, (run m).ports[p]? = some port → port.owedResponse = false)

/-- The client of port `p` eventually accepts responses: it does not leave one waiting for ever. -/
def ClientAccepts (run : Nat → State) (choice : Nat → Event) (p : Nat) : Prop :=
  ∀ n, ∃ m, n ≤ m ∧ (choice m = .deliver p
    ∨ ∀ port, (run m).ports[p]? = some port → port.responses = [])

/-! ### Rounding (rule R12) -/

/-- `r` is the binary32 nearest to `num / den` units of 2^−149, the even one of two that are equally
near; from halfway past the largest finite value on, (2^25 − 1)·2^252 units, it is the infinity of the
same sign. -/
def RoundsTo (r : Word) (num : Int) (den : Nat) : Prop :=
  (isFinite r = true ∧ |num| < (2 ^ 25 - 1) * 2 ^ 252 * (den : Int) ∧ ∀ x : Word, isFinite x = true →
      |scaled r * den - num| ≤ |scaled x * den - num|
        ∧ (|scaled r * den - num| = |scaled x * den - num| → scaled x ≠ scaled r → fracField r % 2 = 0))
    ∨ (isInf r = true ∧ (isNeg r = true ↔ num < 0) ∧ (2 ^ 25 - 1) * 2 ^ 252 * (den : Int) ≤ |num|)

end Sys2Proof.Machine
end

