-- ==== Sys2Proof/Certificates/Slice0/Obligations.lean ====
section
/-! DEFINITION. The statements for the provers, each about the block and none about a program. -/

open Sys2Proof Sys2Proof.Machine

/-! ### Terms of the statements, transcribed from the spec -/

/-- MBZ_MASK of rule R231's pseudocode. -/
def Sys2Proof.Claims.mustBeZero : Nat → Word
  | 2 => 0x0E3FF000
  | 3 => 0x01FFFFFF
  | 4 => 0x003FF000
  | 5 => 0x003FF000
  | 6 => 0x0001FFFF
  | 7 => 0x0001FFFF
  | _ => 0

/-- Steps 1 to 7 of rule R231 on a command word, as its pseudocode writes them: the cause of the first
check that fails. -/
def Sys2Proof.Claims.firstFailure (w : Word) (built : BitVec 6) : Option FaultCause :=
  let op := (w >>> 28).toNat
  let m := (w.extractLsb' 27 1).toNat
  let v := (w.extractLsb' 25 2).toNat
  let sel := (w.extractLsb' 22 3).toNat
  let idx := (w.extractLsb' 17 5).toNat
  if op = 0 ∨ op = 1 ∨ op = 8 then none
  else if 9 ≤ op then some .illegalOp
  else if w &&& Sys2Proof.Claims.mustBeZero op ≠ 0 then some .reservedNonzero
  else if 3 ≤ op ∧ v = 3 then some .badVclass
  else if (op = 2 ∧ 3 < sel) ∨ (4 ≤ op ∧ 4 < sel) then some .badSel
  else if (op = 6 ∧ 5 < idx) ∨ (op = 7 ∧ 24 < idx) then some .badIdx
  else if op = 4 ∧ built.getLsbD (3 * m + v) = false then some .notBuilt
  else none

/-- The code of each cause, from the table of rule R230. -/
def Sys2Proof.Claims.causeNumber : FaultCause → Nat
  | .noFault => 0
  | .illegalOp => 1
  | .reservedNonzero => 2
  | .badVclass => 3
  | .badSel => 4
  | .badIdx => 5
  | .notBuilt => 6

/-- The loop of rule R132 for bit `sb` over the bits below `k`, in ascending order: the pair (avg, n). -/
def Sys2Proof.Claims.sumsBelow (e : ParamEntry) (p : Phase) (sb : Fin 12) : Nat → Word × Word
  | 0 => (0x00000000, 0x00000000)
  | k + 1 =>
    let before := Sys2Proof.Claims.sumsBelow e p sb k
    if h : k < 12 ∧ k ≠ sb.val then
      let w := distanceEntry .reference e ⟨sb.val + 12 - k, by omega⟩
      (fadd before.1 (fmul (fsub 0x3F800000 (signal e p ⟨k, h.1⟩)) w), fadd before.2 w)
    else before

/-- One command performed `n` times over. -/
def Sys2Proof.Claims.execTimes (i : Instr) : Nat → State → Host.Outcome State Fault Refusal
  | 0, s => .next s
  | n + 1, s =>
    match exec i s with
    | .next t => Sys2Proof.Claims.execTimes i n t
    | .fault r => .fault r
    | .refused r => .refused r

/-- A number of steps, up to the first stop. -/
def Sys2Proof.Claims.steps : Nat → State → Host.Outcome State Fault Refusal
  | 0, s => .next s
  | n + 1, s =>
    match step s with
    | .next t => Sys2Proof.Claims.steps n t
    | .fault r => .fault r
    | .refused r => .refused r

/-- Every command but BUILD. -/
def Sys2Proof.Claims.onlyReads : Instr → Bool
  | .build _ _ => false
  | _ => true

/-- The commands that are performed whether or not the block is faulted (rule R87). -/
def Sys2Proof.Claims.inspects : Instr → Bool
  | .nop => true
  | .status => true
  | .rdfault => true
  | _ => false

open Sys2Proof.Claims

/-! ### Encoding and the step -/

/-- Words written out field by field from rules R82 and R84 decode to the commands they stand for. -/
def Obligations.WrittenWordsDecode : Prop :=
  decode 0b00001111111111111111111111111111#32 = .ok .nop
    ∧ decode 0b00100000010000000000100000000000#32 = .ok (.rdbasic 1 0x800)
    ∧ decode 0b00111100000000000000000000000000#32 = .ok (.build .mos8580 2)
    ∧ decode 0b01000010010000000000111100000000#32 = .ok (.rdcomb .mos6581 1 1 0xF00)
    ∧ decode 0b01011011000000000000111111111111#32 = .ok (.calculate .mos8580 1 4 0xFFF)
    ∧ decode 0b01100000010001000000000000000000#32 = .ok (.rdparam .mos6581 0 1 2)
    ∧ decode 0b01110000001100000000000000000000#32 = .ok (.rddist .mos6581 0 0 24)

/-- Decoding the word of any command gives it back, with every operand at every value of its field. -/
def Obligations.DecodeOfEncode : Prop := ∀ i : Instr, decode (encode i) = .ok i

/-- A word that decodes to a command with operands is the one word of that command: no bit is dropped. -/
def Obligations.EncodeOfDecode : Prop :=
  ∀ (w : Word) (i : Instr), decode w = .ok i → inspects i = false → encode i = w

/-- Rule R87: bits 27:0 of NOP, STATUS and RDFAULT are ignored, and none of the three ever faults. -/
def Obligations.InspectionIgnoresOperandBits : Prop :=
  ∀ w : Word, ((w >>> 28).toNat = 0 → decode w = .ok .nop)
    ∧ ((w >>> 28).toNat = 1 → decode w = .ok .status)
    ∧ ((w >>> 28).toNat = 8 → decode w = .ok .rdfault)
    ∧ ∀ (s t : State) (i : Instr), decode w = .ok i → inspects i = true → exec i s = .next t →
        s.SameFault t

/-- Rule R231: the checks of a command word, in order, decide what performing it does. -/
def Obligations.ChecksDecideInOrder : Prop :=
  ∀ s : State,
    (s.fault = false → ∀ c, firstFailure s.cmd.word s.built = some c →
        runCommand s = .next (s.raiseFault c))
      ∧ (s.fault = false → firstFailure s.cmd.word s.built = none →
        ∃ i t, decode s.cmd.word = .ok i ∧ runCommand s = exec i s ∧ exec i s = .next t
          ∧ t.fault = false)
      ∧ (s.fault = true → (s.cmd.word >>> 28).toNat ∉ [0, 1, 8] →
        runCommand s = .next (s.respond .faulted 0))
      ∧ (s.fault = true → (s.cmd.word >>> 28).toNat ∈ [0, 1, 8] →
        ∃ i, inspects i = true ∧ decode s.cmd.word = .ok i ∧ runCommand s = exec i s)

/-- A step performs the command it takes up: the scheduled port's oldest accepted word leaves the queue,
becomes the command, and its decoding is executed. -/
def Obligations.StepPerformsDecodedCommand : Prop :=
  ∀ (s : State) (p : Nat) (rest : List Event) (port : Port) (w : Word) (ws : List Word) (i : Instr),
    s.events = .perform p :: rest → s.ports[p]? = some port → port.accepted = w :: ws →
    decode w = .ok i →
      step s = exec i { s with
        events := rest, ports := s.ports.set p { port with accepted := ws }, cmd := ⟨p, w⟩ }

/-- What the other events do: an offer is accepted while the port is within its limit and waits
otherwise, and the oldest response is delivered. -/
def Obligations.StepMovesTransfers : Prop :=
  ∀ (s : State) (p : Nat) (rest : List Event) (port : Port),
    (s.events = .accept p :: rest → s.ports[p]? = some port →
          ∃ t, step s = .next t ∧ s.SameTables t ∧ s.SameFault t ∧ t.events = rest
            ∧ (∀ q, q ≠ p → t.ports[q]? = s.ports[q]?)
            ∧ ∀ w ws, port.offers = w :: ws →
              t.ports[p]? = some (if port.accepted.length + port.responses.length < s.params.maxOutstanding
                then { port with offers := ws, accepted := port.accepted ++ [w] } else port))
      ∧ (s.events = .deliver p :: rest → s.ports[p]? = some port →
          ∃ t, step s = .next t ∧ s.SameTables t ∧ s.SameFault t ∧ t.events = rest
            ∧ (∀ q, q ≠ p → t.ports[q]? = s.ports[q]?)
            ∧ ∀ r rs, port.responses = r :: rs →
              t.ports[p]? = some { port with responses := rs, delivered := port.delivered ++ [r] })

/-- With nothing scheduled the block makes a move that it owes a port, to accept an offer within the
limit or to perform a command whose client has taken every earlier response; with nothing owed it stays as
it is. Which owed move it makes is a free value (log 20). -/
def Obligations.BlockMakesOwedMoves : Prop :=
  ∀ s : State, s.events = [] →
    ((∀ port ∈ s.ports, (port.offers = []
          ∨ s.params.maxOutstanding ≤ port.accepted.length + port.responses.length)
        ∧ (port.accepted = [] ∨ port.responses ≠ [])) → step s = .next s)
      ∧ ((∃ port ∈ s.ports, (port.offers ≠ []
            ∧ port.accepted.length + port.responses.length < s.params.maxOutstanding)
          ∨ (port.accepted ≠ [] ∧ port.responses = [])) →
        ∃ p port e, s.ports[p]? = some port
          ∧ ((e = .accept p ∧ port.offers ≠ []
              ∧ port.accepted.length + port.responses.length < s.params.maxOutstanding)
            ∨ (e = .perform p ∧ port.accepted ≠ [] ∧ port.responses = []))
          ∧ step s = step { s with events := [e], arbiterDraws := s.arbiterDraws + 1 })

/-- The assembler's forms: every command they write is well formed but an RDDIST whose index is a number
above 24, which the form writes as it is (program P4, line 8, writes index 25), and every RDWEIGHT offset
−12..+12 reads the table index offset + 12. -/
def Obligations.AssembledCommandsWellFormed : Prop :=
  (∀ f : AsmForm, (assemble f).wellFormed = true ↔
      ∀ m k c i, f = .rddist m k c i → i.toNat ≤ 24)
    ∧ (∀ (m : ChipModel) (k : VClass) (c : Comb) (i : BitVec 5),
        (encode (assemble (.rddist m k c i))).toNat
          = 0x70000000 + (modelIndex m).val * 2 ^ 27 + (vclassIndex k).val * 2 ^ 25
            + (combIndex c).val * 2 ^ 22 + i.toNat * 2 ^ 17)
    ∧ encode (assemble (.rddist .mos6581 .average .ts 25)) = 0x70320000
    ∧ ∀ (m : ChipModel) (k : VClass) (c : Comb) (o : Int), -12 ≤ o → o ≤ 12 →
      ∃ i : BitVec 5, (i.toNat : Int) = o + 12
        ∧ expand (.rdweight m k c o)
          = some [.rddist m (BitVec.ofNat 2 (vclassIndex k).val) (BitVec.ofNat 3 (combIndex c).val) i]

/-- No step of the block stops. -/
def Obligations.StepAlwaysContinues : Prop := ∀ s : State, ∃ t, step s = .next t

/-- A command that is performed leaves its port's queue and puts exactly one response there, behind the
earlier ones, and no other port is touched. -/
def Obligations.EachCommandAnswersOnce : Prop :=
  ∀ (s : State) (p : Nat) (rest : List Event) (port : Port) (w : Word) (ws : List Word),
    s.events = .perform p :: rest → s.ports[p]? = some port → port.accepted = w :: ws →
      ∃ t r, step s = .next t
        ∧ t.ports[p]? = some { port with accepted := ws, responses := port.responses ++ [r] }
        ∧ statusCode r.status = (match r.status with | .ok => 0 | .fault => 1 | .faulted => 2)
        ∧ (∀ q, q ≠ p → t.ports[q]? = s.ports[q]?)

/-- Forward progress over infinite runs: under weak fairness on the block's response step, with a client that
eventually accepts responses and no reset from then on, every accepted command has its response delivered,
in order. -/
def Obligations.FairRunsAnswerEveryCommand : Prop :=
  ∀ (run : Nat → State) (choice : Nat → Event) (p n : Nat) (port : Port),
    IsRun run choice → WeaklyFair run choice p → ClientAccepts run choice p →
    (∀ m, n ≤ m → choice m ≠ .reset) → (run n).ports[p]? = some port →
      ∃ m port' rs, n ≤ m ∧ (run m).ports[p]? = some port' ∧ rs.length = port.accepted.length
        ∧ port.delivered ++ port.responses ++ rs <+: port'.delivered

/-- Forward progress with no assumption on the schedule: from every state whose schedule holds no reset the
block comes to rest, and then every port either has all its accepted commands answered, in order, or a
response that its client has not accepted. -/
def Obligations.BlockAnswersWhatItOwes : Prop :=
  ∀ s : State, .reset ∉ s.events →
    ∃ n t, steps n s = .next t ∧ step t = .next t
      ∧ ∀ (p : Nat) (port : Port), s.ports[p]? = some port →
        ∃ port' taken rs, t.ports[p]? = some port'
          ∧ (port'.accepted = [] ∨ port'.responses ≠ [])
          ∧ port.offers = taken ++ port'.offers
          ∧ port'.delivered ++ port'.responses = port.delivered ++ port.responses ++ rs
          ∧ rs.length + port'.accepted.length = port.accepted.length + taken.length

/-- Forward progress: an accepted command whose port is performed once, and whose client then takes the
port's responses, has its response delivered, after those before it. -/
def Obligations.AcceptedCommandIsAnswered : Prop :=
  ∀ (s : State) (p : Nat) (rest : List Event) (port : Port) (w : Word) (ws : List Word),
    s.events = .perform p :: (List.replicate (port.responses.length + 1) (.deliver p) ++ rest) →
    s.ports[p]? = some port → port.accepted = w :: ws →
      ∃ t r, steps (port.responses.length + 2) s = .next t ∧ t.events = rest
        ∧ t.ports[p]? = some { port with
          accepted := ws, responses := [], delivered := port.delivered ++ port.responses ++ [r] }

/-- What a client or the block must hold stable stays, through every step but a reset: an offer until the
port accepts it, and the responses of a port, oldest first, until one is delivered. -/
def Obligations.OffersAndResponsesHeld : Prop :=
  ∀ (s t : State) (p : Nat) (port : Port), step s = .next t → s.events.head? ≠ some .reset →
    s.ports[p]? = some port →
      ∃ port', t.ports[p]? = some port'
        ∧ (port'.offers = port.offers
          ∨ ∃ w, port.offers = w :: port'.offers ∧ port'.accepted = port.accepted ++ [w])
        ∧ (port.responses <+: port'.responses ∧ port'.delivered = port.delivered
          ∨ ∃ r, port.responses = r :: port'.responses ∧ port'.delivered = port.delivered ++ [r])

/-! ### Control and status commands -/

/-- Rule R210: NOP answers (OK, 0) and does nothing else, faulted or not, whatever bits 27:0 hold. -/
def Obligations.NopAnswersZero : Prop :=
  ∀ s : State, exec .nop s = .next (s.respond .ok 0)
    ∧ ((s.cmd.word >>> 28).toNat = 0 → runCommand s = .next (s.respond .ok 0))

/-- Rules R211 and R41: STATUS answers the status view, field by field, faulted or not, whatever bits
27:0 hold, and the view is 0 after reset. -/
def Obligations.StatusShowsStatusState : Prop :=
  (∀ s : State, ∃ d : Word, exec .status s = .next (s.respond .ok d)
      ∧ ((s.cmd.word >>> 28).toNat = 1 → runCommand s = .next (s.respond .ok d))
      ∧ d.extractLsb' 0 6 = s.built ∧ d.extractLsb' 6 2 = 0
      ∧ d.extractLsb' 8 3 = s.buildCount ∧ d.extractLsb' 11 5 = 0
      ∧ d.extractLsb' 16 1 = BitVec.ofBool s.fault ∧ d.extractLsb' 17 3 = 0
      ∧ d.extractLsb' 20 4 = BitVec.ofNat 4 (causeNumber s.faultCause) ∧ d.extractLsb' 24 8 = 0)
    ∧ State.reset.statusView = 0

/-- Rule R212: RDFAULT answers FAULT_WORD, faulted or not, whatever bits 27:0 hold: 0 while no fault is
recorded, and the first faulting word after one, which later commands do not overwrite. -/
def Obligations.RdfaultShowsFaultWord : Prop :=
  ∀ s : State, exec .rdfault s = .next (s.respond .ok s.faultWord)
    ∧ ((s.cmd.word >>> 28).toNat = 8 → runCommand s = .next (s.respond .ok s.faultWord))
    ∧ (s.FaultHolds → s.fault = false → exec .rdfault s = .next (s.respond .ok 0))
    ∧ ∀ (c : FaultCause) (i : Instr) (t : State), exec i (s.raiseFault c) = .next t →
        t.faultWord = s.cmd.word

/-! ### Basic tables -/

/-- Rules R190 to R193: the contents of BASIC_LUT at every phase, valid from reset. -/
def Obligations.BasicTableContents : Prop :=
  ∀ p : Phase, State.reset.readBasic .high p = 0xFFF
    ∧ State.reset.readBasic .tri p = (if p.getLsbD 11 = false then p else p ^^^ 0xFFF) <<< 1
    ∧ State.reset.readBasic .saw p = p
    ∧ State.reset.readBasic .pas p = p &&& (p <<< 1)

/-- RDBASIC answers the sample of its kind and phase, zero-extended, kind by kind. -/
def Obligations.RdbasicAnswersSample : Prop :=
  ∀ (s : State) (p : Phase), s.fault = false → s.BasicTablesHold →
    exec (.rdbasic 0 p) s = .next (s.respond .ok 0xFFF)
      ∧ exec (.rdbasic 1 p) s = .next (s.respond .ok
          (((if p.getLsbD 11 = false then p else p ^^^ 0xFFF) <<< 1).setWidth 32))
      ∧ exec (.rdbasic 2 p) s = .next (s.respond .ok (p.setWidth 32))
      ∧ exec (.rdbasic 3 p) s = .next (s.respond .ok ((p &&& (p <<< 1)).setWidth 32))

/-- Rule R196: the ranges of the basic samples. -/
def Obligations.BasicSampleRanges : Prop :=
  ∀ (s : State) (p : Phase), s.BasicTablesHold →
    (s.readBasic .high p).toNat = 4095
      ∧ (s.readBasic .tri p).toNat ≤ 4094 ∧ (s.readBasic .tri p).toNat % 2 = 0
      ∧ (s.readBasic .saw p).toNat ≤ 4095
      ∧ (s.readBasic .pas p).toNat ≤ 4094 ∧ (s.readBasic .pas p).getLsbD 0 = false

/-! ### BUILD and RDCOMB -/

/-- Rule R160: the slot of each (model, variance class) pair. -/
def Obligations.SlotNumbers : Prop :=
  (slotIndex .mos6581 .average).val = 0 ∧ (slotIndex .mos6581 .weak).val = 1
    ∧ (slotIndex .mos6581 .strong).val = 2 ∧ (slotIndex .mos8580 .average).val = 3
    ∧ (slotIndex .mos8580 .weak).val = 4 ∧ (slotIndex .mos8580 .strong).val = 5

/-- BUILD of a slot that is not built: the slot gets the function of rule R161 at every combination and
phase, its BUILT bit is set, BUILD_COUNT rises by one, the response is (OK, slot), and nothing else
changes. -/
def Obligations.BuildMissFillsSlot : Prop :=
  ∀ (s : State) (m : ChipModel) (v : BitVec 2) (k : VClass), s.fault = false →
    (vclassIndex k).val = v.toNat → builtBit s.built (slotIndex m k) = false →
      ∃ t, exec (.build m v) s = .next t
        ∧ (∀ c p, t.readComb (slotIndex m k) c p
            = pulldownCalc s.params.numerics (romEntry s.params.paramRom m k c) p)
        ∧ (∀ j : Fin 6, j ≠ slotIndex m k → t.combLut[j] = s.combLut[j])
        ∧ (∀ j : Fin 6, builtBit t.built j = (decide (j = slotIndex m k) || builtBit s.built j))
        ∧ t.buildCount = s.buildCount + 1
        ∧ s.SameFault t ∧ s.SameSetting t
        ∧ s.Responds t ⟨.ok, BitVec.ofNat 32 (3 * (modelIndex m).val + v.toNat)⟩

/-- BUILD of a built slot is a hit: the response has HIT = 1 and the slot number, and nothing else
changes. -/
def Obligations.BuildHitChangesNothing : Prop :=
  ∀ (s : State) (m : ChipModel) (v : BitVec 2) (k : VClass), s.fault = false →
    (vclassIndex k).val = v.toNat → builtBit s.built (slotIndex m k) = true →
      exec (.build m v) s
        = .next (s.respond .ok (BitVec.ofNat 32 (0x100 + 3 * (modelIndex m).val + v.toNat)))

/-- RDCOMB of a built slot answers the element of COMB_LUT, zero-extended. -/
def Obligations.RdcombReadsBuiltSlot : Prop :=
  ∀ (s : State) (m : ChipModel) (v : BitVec 2) (k : VClass) (sel : BitVec 3) (c : Comb) (p : Phase),
    s.fault = false → (vclassIndex k).val = v.toNat → (combIndex c).val = sel.toNat →
    builtBit s.built (slotIndex m k) = true →
      exec (.rdcomb m v sel p) s = .next (s.respond .ok ((s.readComb (slotIndex m k) c p).setWidth 32))

/-- RDCOMB of a slot that is not built takes the NOT_BUILT fault. -/
def Obligations.RdcombOfUnbuiltSlotFaults : Prop :=
  ∀ (s : State) (m : ChipModel) (v : BitVec 2) (k : VClass) (sel : BitVec 3) (c : Comb) (p : Phase),
    s.fault = false → (vclassIndex k).val = v.toNat → (combIndex c).val = sel.toNat →
    builtBit s.built (slotIndex m k) = false →
      exec (.rdcomb m v sel p) s = .next (s.raiseFault .notBuilt)

/-- Once a slot is built, RDCOMB and CALC of the same operands do the same. -/
def Obligations.RdcombEqualsCalc : Prop :=
  ∀ (s : State) (m : ChipModel) (v : BitVec 2) (k : VClass) (sel : BitVec 3) (p : Phase),
    s.BuiltSlotsHold → (vclassIndex k).val = v.toNat → builtBit s.built (slotIndex m k) = true →
      exec (.rdcomb m v sel p) s = exec (.calculate m v sel p) s

/-- Rules R163 and R167 over two ports: of two BUILDs of one unbuilt slot, whichever is performed first
misses and the other hits, and exactly one build is counted. -/
def Obligations.ConcurrentBuildsBuildOnce : Prop :=
  ∀ (s : State) (m : ChipModel) (v : BitVec 2) (k : VClass) (p q : Nat) (rest : List Event)
    (a b : Port) (x y : Word) (xs ys : List Word),
    s.fault = false → (vclassIndex k).val = v.toNat → builtBit s.built (slotIndex m k) = false →
    p ≠ q → s.events = .perform p :: .perform q :: rest →
    s.ports[p]? = some a → a.accepted = x :: xs → decode x = .ok (.build m v) →
    s.ports[q]? = some b → b.accepted = y :: ys → decode y = .ok (.build m v) →
      ∃ t u, step s = .next t ∧ step t = .next u
        ∧ u.buildCount = s.buildCount + 1
        ∧ builtBit u.built (slotIndex m k) = true
        ∧ u.ports[p]? = some { a with accepted := xs, responses := a.responses
            ++ [⟨.ok, BitVec.ofNat 32 (slotIndex m k).val⟩] }
        ∧ u.ports[q]? = some { b with accepted := ys, responses := b.responses
            ++ [⟨.ok, BitVec.ofNat 32 (0x100 + (slotIndex m k).val)⟩] }

/-- Rule R167: N ≥ 1 BUILDs of one unbuilt slot count one build; the first response has HIT = 0 and every
other HIT = 1. -/
def Obligations.RepeatedBuildsBuildOnce : Prop :=
  ∀ (n : Nat) (s : State) (m : ChipModel) (v : BitVec 2) (k : VClass) (port : Port),
    s.fault = false → (vclassIndex k).val = v.toNat → builtBit s.built (slotIndex m k) = false →
    s.ports[s.cmd.port]? = some port →
      ∃ t, execTimes (.build m v) (n + 1) s = .next t
        ∧ t.buildCount = s.buildCount + 1
        ∧ t.ports[s.cmd.port]? = some { port with
          responses := port.responses ++ [⟨.ok, BitVec.ofNat 32 (slotIndex m k).val⟩]
            ++ List.replicate n ⟨.ok, BitVec.ofNat 32 (0x100 + (slotIndex m k).val)⟩ }

/-- The pseudo-command LOOKUP on a block that is not faulted: its BUILD and then its RDCOMB are both
performed, and the second response is (OK, sample), whether the slot was built before or not. -/
def Obligations.LookupAnswersSample : Prop :=
  ∀ (s : State) (m : ChipModel) (k : VClass) (c : Comb) (p : Phase), s.fault = false →
    s.BuiltSlotsHold →
      ∃ b r t u, expand (.lookup m k c p) = some [b, r] ∧ exec b s = .next t ∧ exec r t = .next u
        ∧ u.fault = false
        ∧ ∀ port, s.ports[s.cmd.port]? = some port → ∃ hit, u.ports[s.cmd.port]? = some { port with
          responses := port.responses ++ [hit, ⟨.ok,
            (pulldownCalc s.params.numerics (romEntry s.params.paramRom m k c) p).setWidth 32⟩] }

/-- Rule R164: a built slot stays built and unchanged through every step that is not a reset. -/
def Obligations.BuiltSlotsAreImmutable : Prop :=
  ∀ (s t : State) (j : Fin 6), step s = .next t → s.events.head? ≠ some .reset →
    builtBit s.built j = true → builtBit t.built j = true ∧ t.combLut[j] = s.combLut[j]

/-- Rule R39: BUILD_COUNT is at most 6 and a build raises it without wrapping. -/
def Obligations.BuildCountNeverWraps : Prop :=
  ∀ (s : State), s.CountHolds → s.buildCount.toNat ≤ 6
    ∧ ∀ (t : State) (m : ChipModel) (v : BitVec 2), exec (.build m v) s = .next t →
        (t.built ≠ s.built → t.buildCount.toNat = s.buildCount.toNat + 1)
          ∧ (t.built = s.built → t.buildCount = s.buildCount)

/-- Two states that differ only in the contents of unbuilt slots stay so through every step: no response
and no other part of the state ever shows those contents. -/
def Obligations.UnbuiltContentsUnobservable : Prop :=
  ∀ s t : State, s.AgreeOnBuilt t →
    ∃ s' t', step s = .next s' ∧ step t = .next t' ∧ s'.AgreeOnBuilt t'

/-! ### CALC and the calculator -/

/-- CALC answers the calculator's sample of its entry and phase, zero-extended. -/
def Obligations.CalcAnswersSample : Prop :=
  ∀ (s : State) (m : ChipModel) (v : BitVec 2) (k : VClass) (sel : BitVec 3) (c : Comb) (p : Phase),
    s.fault = false → (vclassIndex k).val = v.toNat → (combIndex c).val = sel.toNat →
      exec (.calculate m v sel p) s = .next (s.respond .ok
        ((pulldownCalc s.params.numerics (romEntry s.params.paramRom m k c) p).setWidth 32))

/-- Rules R130 and R131: the signal vector; bit 11 is the scaled bit, which is `topbit` or 0.0. -/
def Obligations.SignalVector : Prop :=
  ∀ (e : ParamEntry) (p : Phase),
    (∀ k : Fin 12, k ≠ 11 →
        signal e p k = if p.getLsbD k.val then 0x3F800000#32 else 0x00000000#32)
      ∧ signal e p 11 = fmul (if p.getLsbD 11 then 0x3F800000 else 0x00000000) e.topbit
      ∧ (isPositive e.topbit = true →
        signal e p 11 = if p.getLsbD 11 then e.topbit else 0x00000000#32)

/-- Rules R132 to R135: the pulldown fraction of a bit is the numerator, summed over the other bits in
ascending order with (1 − bit) times the weight, less the pulse strength, divided by the sum of the weights
used; and output bit `sb` is 1 exactly when the phase bit is 1 and 1 − pd[sb] exceeds the threshold. -/
def Obligations.OutputBitDecision : Prop :=
  ∀ (e : ParamEntry) (p : Phase) (sb : Fin 12),
    pulldownFraction e p sb
        = fdiv (fsub (sumsBelow e p sb 12).1 e.pulsestrength) (sumsBelow e p sb 12).2
      ∧ weightSum .reference e sb = (sumsBelow e p sb 12).2
      ∧ ((pulldownCalc .reference e p).getLsbD sb.val = true ↔
        p.getLsbD sb.val = true
          ∧ fgt (fsub 0x3F800000 (pulldownFraction e p sb)) e.threshold = true)

/-- For an admitted `topbit`, testing the scaled bit 11 against 0 is testing phase bit 11. -/
def Obligations.TopBitReadingsAgree : Prop :=
  ∀ (e : ParamEntry) (p : Phase), isPositive e.topbit = true →
    fgt (signal e p 11) 0x00000000 = p.getLsbD 11

/-- Rule R137: range, pulldown only, phase zero and single-bit phases, under any numerics. -/
def Obligations.PulldownLaws : Prop :=
  ∀ (n : Numerics) (e : ParamEntry) (p : Phase),
    (pulldownCalc n e p).toNat ≤ 4095
      ∧ pulldownCalc n e p &&& ~~~p = 0 ∧ (pulldownCalc n e p).toNat ≤ p.toNat
      ∧ pulldownCalc n e 0 = 0
      ∧ ∀ k : Fin 12, pulldownCalc n e (1#12 <<< k.val) = 0
          ∨ pulldownCalc n e (1#12 <<< k.val) = 1#12 <<< k.val

/-- Rule R108: `distance1` (indices 0 to 11) weights the higher-index bits and `distance2` (indices 13
to 24) the lower-index bits; index 12 belongs to no pair the calculator uses. -/
def Obligations.WeightSides : Prop :=
  ∀ sb cb : Fin 12, (weightIndex sb cb).val + cb.val = sb.val + 12
    ∧ (sb < cb ↔ (weightIndex sb cb).val < 12) ∧ (cb < sb ↔ 12 < (weightIndex sb cb).val)

/-! ### Parameters, distances and binary32 -/

/-- RDPARAM answers the field that IDX names: the selector code zero-extended, or the pattern. -/
def Obligations.RdparamAnswersField : Prop :=
  ∀ (s : State) (m : ChipModel) (v : BitVec 2) (k : VClass) (sel : BitVec 3) (c : Comb),
    s.fault = false → (vclassIndex k).val = v.toNat → (combIndex c).val = sel.toNat →
      let e := romEntry s.params.paramRom m k c
      exec (.rdparam m v sel 0) s = .next (s.respond .ok
          (match e.fn with | .exponential => 0 | .linear => 1 | .quadratic => 2))
        ∧ exec (.rdparam m v sel 1) s = .next (s.respond .ok e.threshold)
        ∧ exec (.rdparam m v sel 2) s = .next (s.respond .ok e.topbit)
        ∧ exec (.rdparam m v sel 3) s = .next (s.respond .ok e.pulsestrength)
        ∧ exec (.rdparam m v sel 4) s = .next (s.respond .ok e.distance1)
        ∧ exec (.rdparam m v sel 5) s = .next (s.respond .ok e.distance2)

/-- RDDIST answers the distance table of rule R106: index 12 is 1.0 whatever the ROM and the numerics,
lower offsets run `distance1` and higher offsets `distance2` through the entry's function. -/
def Obligations.RddistAnswersWeight : Prop :=
  ∀ (s : State) (m : ChipModel) (v : BitVec 2) (k : VClass) (sel : BitVec 3) (c : Comb),
    s.fault = false → (vclassIndex k).val = v.toNat → (combIndex c).val = sel.toNat →
      let e := romEntry s.params.paramRom m k c
      exec (.rddist m v sel 12) s = .next (s.respond .ok 0x3F800000)
        ∧ ∀ i : Nat, 1 ≤ i → i ≤ 12 →
          exec (.rddist m v sel (BitVec.ofNat 5 (12 - i))) s
              = .next (s.respond .ok (distanceFn s.params.numerics e.fn e.distance1 i))
            ∧ exec (.rddist m v sel (BitVec.ofNat 5 (12 + i))) s
              = .next (s.respond .ok (distanceFn s.params.numerics e.fn e.distance2 i))

/-- If the two distances are equal the table is symmetric about index 12. -/
def Obligations.EqualDistancesSymmetricTable : Prop :=
  ∀ (n : Numerics) (e : ParamEntry) (i j : Fin 25), e.distance1 = e.distance2 → i.val + j.val = 24 →
    distanceEntry n e i = distanceEntry n e j

/-- The linear and quadratic functions in the written order of operations, and the exponential as a
rounded power: its exact value is 2^(149·(i+1)) / D^i units of 2^−149, where D is the scaled distance. For an
extreme distance the power passes the largest finite value and is the infinity, which is the model's reading
of rule R12 (log 14). -/
def Obligations.DistanceFormulas : Prop :=
  ∀ (d : Word) (i : Nat), isPositive d = true → 1 ≤ i → i ≤ 12 →
    distanceFn .reference .linear d i = fdiv 0x3F800000 (fadd 0x3F800000 (fmul (fint i) d))
      ∧ distanceFn .reference .quadratic d i
          = fdiv 0x3F800000 (fadd 0x3F800000 (fmul (fint (i * i)) d))
      ∧ RoundsTo (distanceFn .reference .exponential d i) (2 ^ (149 * (i + 1))) (scaledMagnitude d ^ i)

/-- Rule R12: a result rounded once is the binary32 nearest to the exact value, ties to even. The infinity
past the largest finite value is the model's reading (log 14). -/
def Obligations.RoundOnceIsNearestEven : Prop :=
  ∀ (neg : Bool) (num den : Nat), 0 < den →
    RoundsTo (roundOnce neg num den) (if neg then -(num : Int) else (num : Int)) den

/-- Rule R12: sum, difference, product and quotient of finite operands are the exact result rounded once;
`fgt` is the ordered, strict comparison, false where an operand is a NaN; `fint` is exact for every integer
the rules use; and the constants 1.0 and 0.0. The infinity past the largest finite value, where the
infinities stand and that the two zeros are equal are the model's reading (log 14). -/
def Obligations.ArithmeticRoundsExactResult : Prop :=
  (∀ a b : Word, isFinite a = true → isFinite b = true →
      RoundsTo (fadd a b) (scaled a + scaled b) 1
        ∧ RoundsTo (fsub a b) (scaled a - scaled b) 1
        ∧ RoundsTo (fmul a b) (scaled a * scaled b) (2 ^ 149)
        ∧ (isZero b = false →
            RoundsTo (fdiv a b) (scaled a * 2 ^ 149 * (scaled b).sign) (scaled b).natAbs))
    ∧ (∀ a b : Word,
      (isNaN a = true ∨ isNaN b = true → fgt a b = false)
        ∧ (isFinite a = true → isFinite b = true → (fgt a b = true ↔ scaled b < scaled a))
        ∧ (isFinite a = true → isInf b = true → (fgt a b = true ↔ isNeg b = true))
        ∧ (isInf a = true → isFinite b = true → (fgt a b = true ↔ isNeg a = false))
        ∧ (isInf a = true → isInf b = true →
            (fgt a b = true ↔ isNeg a = false ∧ isNeg b = true)))
    ∧ (∀ i : Nat, i ≤ 144 → isFinite (fint i) = true ∧ scaled (fint i) = i * 2 ^ 149)
    ∧ scaled 0x3F800000 = 2 ^ 149 ∧ scaled 0x00000000 = 0

/-! ### Faults -/

/-- The range faults of the commands that use V, SEL and IDX, each in the order of the checks. -/
def Obligations.RangeFaults : Prop :=
  ∀ (s : State) (m : ChipModel) (v : BitVec 2) (sel : BitVec 3) (idx : BitVec 5) (p : Phase),
    s.fault = false →
      (v = 3 →
        exec (.build m v) s = .next (s.raiseFault .badVclass)
          ∧ exec (.rdcomb m v sel p) s = .next (s.raiseFault .badVclass)
          ∧ exec (.calculate m v sel p) s = .next (s.raiseFault .badVclass)
          ∧ exec (.rdparam m v sel idx) s = .next (s.raiseFault .badVclass)
          ∧ exec (.rddist m v sel idx) s = .next (s.raiseFault .badVclass))
        ∧ (v ≠ 3 → 4 < sel.toNat →
          exec (.rdcomb m v sel p) s = .next (s.raiseFault .badSel)
            ∧ exec (.calculate m v sel p) s = .next (s.raiseFault .badSel)
            ∧ exec (.rdparam m v sel idx) s = .next (s.raiseFault .badSel)
            ∧ exec (.rddist m v sel idx) s = .next (s.raiseFault .badSel))
        ∧ (3 < sel.toNat → exec (.rdbasic sel p) s = .next (s.raiseFault .badSel))
        ∧ (v ≠ 3 → sel.toNat ≤ 4 → 5 < idx.toNat →
          exec (.rdparam m v sel idx) s = .next (s.raiseFault .badIdx))
        ∧ (v ≠ 3 → sel.toNat ≤ 4 → 24 < idx.toNat →
          exec (.rddist m v sel idx) s = .next (s.raiseFault .badIdx))

/-- A command that is well formed never takes a range fault: the one fault it can enter is NOT_BUILT, by an
RDCOMB of a slot that is not built. -/
def Obligations.WellFormedFaultsOnlyUnbuilt : Prop :=
  ∀ (i : Instr) (s t : State), i.wellFormed = true → s.fault = false → exec i s = .next t →
    t.fault = true → t.faultCause = .notBuilt ∧ ∃ m v sel p k, i = .rdcomb m v sel p
      ∧ (vclassIndex k).val = v.toNat ∧ builtBit s.built (slotIndex m k) = false

/-- Rule R232: fault entry sets FAULT, records the cause and the whole word, answers (FAULT, cause) and
changes nothing else; a performed command that ends faulted, the block not being so before, has done
exactly this; and no command performed on a faulted block overwrites the first fault. -/
def Obligations.FaultEntryIsPrecise : Prop :=
  (∀ (s : State) (c : FaultCause),
      (s.raiseFault c).fault = true ∧ (s.raiseFault c).faultCause = c
        ∧ (s.raiseFault c).faultWord = s.cmd.word
        ∧ s.SameTables (s.raiseFault c) ∧ s.SameSetting (s.raiseFault c)
        ∧ s.Responds (s.raiseFault c) ⟨.fault, BitVec.ofNat 32 (causeNumber c)⟩)
    ∧ ∀ s t : State, runCommand s = .next t →
      (s.fault = false → t.fault = true → t = s.raiseFault t.faultCause)
        ∧ (s.fault = true → s.SameFault t)

/-- Rule R233: while FAULT = 1 every word but NOP, STATUS and RDFAULT gets (FAULTED, 0) and nothing else
changes. -/
def Obligations.FaultedBlockRefuses : Prop :=
  ∀ s : State, s.fault = true →
    (∀ i : Instr, inspects i = false → exec i s = .next (s.respond .faulted 0))
      ∧ ((s.cmd.word >>> 28).toNat ∉ [0, 1, 8] → runCommand s = .next (s.respond .faulted 0))

/-- Rules R234 and R235: through every step but a reset a faulted block stays faulted with its first cause
and word, and its tables, BUILT and BUILD_COUNT stay as they are. -/
def Obligations.FirstFaultIsKept : Prop :=
  ∀ s t : State, step s = .next t → s.fault = true → s.events.head? ≠ some .reset →
    s.SameFault t ∧ s.SameTables t

/-! ### Frames and invariants -/

/-- Every command but BUILD: the tables, the constants and every other port stay as they are, the port of
the command gets one response, and the fault registers stay unless the command itself faults. -/
def Obligations.ReadCommandsFrame : Prop :=
  ∀ (i : Instr) (s t : State), onlyReads i = true → exec i s = .next t →
    s.SameTables t ∧ s.SameSetting t
      ∧ (∃ r, s.Responds t r ∧ (r.status ≠ .fault → s.SameFault t))
      ∧ (s.fault = true ∨ inspects i = true → s.SameFault t)

/-- BUILD: the constants, every other port and every slot but the one named stay as they are, as does the
fault state unless V is 3 and the block not faulted. -/
def Obligations.BuildFrame : Prop :=
  ∀ (m : ChipModel) (v : BitVec 2) (s t : State), exec (.build m v) s = .next t →
    s.SameSetting t ∧ (∃ r, s.Responds t r)
      ∧ (∀ j : Fin 6, (∀ k, (vclassIndex k).val = v.toNat → j ≠ slotIndex m k) →
          t.combLut[j] = s.combLut[j] ∧ builtBit t.built j = builtBit s.built j)
      ∧ (v ≠ 3 ∨ s.fault = true → s.SameFault t)
      ∧ (v = 3 ∨ s.fault = true → s.SameTables t)

/-- PARAM_ROM and every other parameter, and BASIC_LUT, never change, not even by reset. The number of ports
is a parameter held as the length of the port list (log 2). -/
def Obligations.ConstantsNeverChange : Prop :=
  ∀ s t : State, step s = .next t → t.params = s.params ∧ t.basicLut = s.basicLut
    ∧ t.ports.length = s.ports.length

/-- What reset leaves, from any state: nothing built, no fault, no transfer in flight, STATUS reads 0,
and the constants as they were. -/
def Obligations.ResetLeaves : Prop :=
  ∀ (s : State) (rest : List Event), s.events = .reset :: rest →
    ∃ t, step s = .next t ∧ t.built = 0 ∧ t.buildCount = 0 ∧ t.fault = false
      ∧ t.faultCause = .noFault ∧ t.faultWord = 0 ∧ t.statusView = 0
      ∧ t.params = s.params ∧ t.basicLut = s.basicLut
      ∧ ∀ port ∈ t.ports, port.accepted = [] ∧ port.responses = []

/-- The machine after reset is consistent, whatever its parameters. -/
def Obligations.ResetIsConsistent : Prop := State.reset.Consistent

/-- Every step keeps a consistent state consistent: built slots hold the function of rule R161, BASIC_LUT
its contents, BUILD_COUNT the number of built slots, the fault registers agree, and every port keeps
within MAX_OUTSTANDING. -/
def Obligations.StepKeepsConsistent : Prop :=
  ∀ s t : State, s.Consistent → step s = .next t → t.Consistent

/-- A machine is built only from admitted parameters and at least one port; it has them and is
consistent. Any other argument is refused as a whole. Admission is exactly conditions (a) to (f) of rule R34
on every entry of the ROM, with MAX_OUTSTANDING at least 1 (rule R10). The pattern of (e) is 0x00000000
(log 9), and the threshold −0 counts as ≥ 0 (log 15). -/
def Obligations.PowerOnAdmitsOrRefuses : Prop :=
  (∀ (p : Params) (n : Nat),
      (paramsAdmitted p = true → 1 ≤ n →
          ∃ t, powerOn p n = .next t ∧ t.params = p ∧ t.ports.length = n ∧ t.Consistent)
        ∧ (paramsAdmitted p = false ∨ n = 0 → powerOn p n = .refused .paramsNotAdmitted))
    ∧ ∀ P : Params, paramsAdmitted P = true ↔
      1 ≤ P.maxOutstanding
        ∧ (∀ (m : ChipModel) (v : VClass) (c : Comb),
            let e := romEntry P.paramRom m v c
            (isFinite e.distance1 = true ∧ 0 < scaled e.distance1)
              ∧ (isFinite e.distance2 = true ∧ 0 < scaled e.distance2)
              ∧ (∀ j : Fin 25, isFinite (distanceEntry P.numerics e j) = true
                  ∧ 0 < scaled (distanceEntry P.numerics e j))
              ∧ (∀ sb : Fin 12, isFinite (weightSum P.numerics e sb) = true
                  ∧ scaled (weightSum P.numerics e sb) ≠ 0)
              ∧ isFinite e.threshold = true ∧ isFinite e.topbit = true ∧ isFinite e.pulsestrength = true
              ∧ 0 < scaled e.topbit ∧ 0 ≤ scaled e.threshold
              ∧ (c = .ts → e.pulsestrength = 0x00000000))
        ∧ ∃ (c : Comb) (p : Phase),
            pulldownCalc P.numerics (romEntry P.paramRom .mos6581 .average c) p
              ≠ pulldownCalc P.numerics (romEntry P.paramRom .mos8580 .average c) p

/-- Rule R168: once the AVERAGE slots of both models are built, some combination and phase read
differently in them. -/
def Obligations.BuiltModelsDiffer : Prop :=
  ∀ s : State, paramsAdmitted s.params = true → s.BuiltSlotsHold →
    builtBit s.built (slotIndex .mos6581 .average) = true →
    builtBit s.built (slotIndex .mos8580 .average) = true →
      ∃ c p, s.readComb 0 c p ≠ s.readComb 3 c p

/-- In an admitted ROM every weight is finite and positive and every weight sum is finite and nonzero, so
the calculator never divides by zero. -/
def Obligations.AdmittedSumsNeverVanish : Prop :=
  ∀ (p : Params) (m : ChipModel) (v : VClass) (c : Comb), paramsAdmitted p = true →
    (∀ j : Fin 25, isPositive (distanceEntry p.numerics (romEntry p.paramRom m v c) j) = true)
      ∧ ∀ sb : Fin 12, isFinite (weightSum p.numerics (romEntry p.paramRom m v c) sb) = true
        ∧ isZero (weightSum p.numerics (romEntry p.paramRom m v c) sb) = false

/-- For every admitted ROM, RDPARAM of PULSESTRENGTH of a TS entry answers 0. -/
def Obligations.TsPulsestrengthReadsZero : Prop :=
  ∀ (s : State) (m : ChipModel) (v : BitVec 2), paramsAdmitted s.params = true → s.fault = false →
    v ≠ 3 → exec (.rdparam m v 0 3) s = .next (s.respond .ok 0)
end

