-- ==== Sys2Proof/Laws/Binary32.lean ====
section
/-! SUPPORT. The parts of a binary32 pattern made of a sign and a magnitude (rule R62). -/

namespace Sys2Proof.Machine

/-- A rounded magnitude is at most the infinity. -/
theorem roundedMagnitude_le (num den : Nat) : roundedMagnitude num den ≤ 0x7F800000 := by
  unfold roundedMagnitude
  dsimp only
  split <;> omega

theorem toNat_withSign (neg : Bool) {mag : Nat} (h : mag < 2 ^ 31) :
    (withSign neg mag).toNat = if neg then 2 ^ 31 + mag else mag := by
  cases neg <;> simp [withSign] <;> omega

@[simp] theorem magnitude_withSign (neg : Bool) {mag : Nat} (h : mag < 2 ^ 31) :
    magnitude (withSign neg mag) = mag := by
  simp only [magnitude, BitVec.extractLsb'_toNat, toNat_withSign neg h, Nat.shiftRight_zero]
  cases neg <;> simp <;> omega

@[simp] theorem isNeg_withSign (neg : Bool) {mag : Nat} (h : mag < 2 ^ 31) :
    isNeg (withSign neg mag) = neg := by
  have := toNat_withSign neg h
  simp only [isNeg, BitVec.getLsbD, this]
  cases neg
  · simp [Nat.testBit_lt_two_pow h]
  · show (2 ^ 31 + mag).testBit 31 = true
    rw [Nat.testBit_two_pow_add_eq, Nat.testBit_lt_two_pow h]
    rfl

/-- A result rounded once is never a NaN. -/
theorem isNaN_roundOnce (neg : Bool) (num den : Nat) : isNaN (roundOnce neg num den) = false := by
  have h := roundedMagnitude_le num den
  simp [isNaN, roundOnce, magnitude_withSign neg (show roundedMagnitude num den < 2 ^ 31 by omega), h]

/-- The sign of a result rounded once. -/
theorem isNeg_roundOnce (neg : Bool) (num den : Nat) : isNeg (roundOnce neg num den) = neg := by
  have h := roundedMagnitude_le num den
  exact isNeg_withSign neg (by omega)

end Sys2Proof.Machine
end

