-- ==== Sys2Proof/Laws/Decode.lean ====
section
/-! SUPPORT. The fields of a word the encoder writes (rules R82 and R83). -/

namespace Sys2Proof

variable (op : BitVec 4) (m : BitVec 1) (v : BitVec 2) (sel : BitVec 3) (idx : BitVec 5) (phase : Phase)

/-- Bit `i` of a written word, found in the field it belongs to. -/
theorem getLsbD_commandWord (i : Nat) :
    (commandWord op m v sel idx phase).getLsbD i
      = if i < 12 then phase.getLsbD i
        else if i - 12 < 5 then false
        else if i - 12 - 5 < 5 then idx.getLsbD (i - 12 - 5)
        else if i - 12 - 5 - 5 < 3 then sel.getLsbD (i - 12 - 5 - 5)
        else if i - 12 - 5 - 5 - 3 < 2 then v.getLsbD (i - 12 - 5 - 5 - 3)
        else if i - 12 - 5 - 5 - 3 - 2 < 1 then m.getLsbD (i - 12 - 5 - 5 - 3 - 2)
        else op.getLsbD (i - 12 - 5 - 5 - 3 - 2 - 1) := by
  simp only [commandWord, BitVec.getLsbD_append, show (0 : BitVec 5).getLsbD (i - 12) = false by simp]

@[simp] theorem opField_commandWord : opField (commandWord op m v sel idx phase) = op := by
  apply BitVec.eq_of_getLsbD_eq
  intro i hi
  simp only [opField, BitVec.getLsbD_extractLsb', getLsbD_commandWord, hi, decide_true, Bool.true_and]
  repeat rw [if_neg (by omega)]
  congr 1
  omega

@[simp] theorem vField_commandWord : vField (commandWord op m v sel idx phase) = v := by
  apply BitVec.eq_of_getLsbD_eq
  intro i hi
  simp only [vField, BitVec.getLsbD_extractLsb', getLsbD_commandWord, hi, decide_true, Bool.true_and]
  rw [if_neg (by omega), if_neg (by omega), if_neg (by omega), if_neg (by omega), if_pos (by omega)]
  congr 1
  omega

@[simp] theorem selField_commandWord : selField (commandWord op m v sel idx phase) = sel := by
  apply BitVec.eq_of_getLsbD_eq
  intro i hi
  simp only [selField, BitVec.getLsbD_extractLsb', getLsbD_commandWord, hi, decide_true, Bool.true_and]
  rw [if_neg (by omega), if_neg (by omega), if_neg (by omega), if_pos (by omega)]
  congr 1
  omega

@[simp] theorem idxField_commandWord : idxField (commandWord op m v sel idx phase) = idx := by
  apply BitVec.eq_of_getLsbD_eq
  intro i hi
  simp only [idxField, BitVec.getLsbD_extractLsb', getLsbD_commandWord, hi, decide_true, Bool.true_and]
  rw [if_neg (by omega), if_neg (by omega), if_pos (by omega)]
  congr 1
  omega

@[simp] theorem phaseField_commandWord : phaseField (commandWord op m v sel idx phase) = phase := by
  apply BitVec.eq_of_getLsbD_eq
  intro i hi
  simp only [phaseField, BitVec.getLsbD_extractLsb', getLsbD_commandWord, hi, decide_true, Bool.true_and]
  rw [if_pos (by omega), Nat.zero_add]

@[simp] theorem mField_commandWord (c : ChipModel) :
    mField (commandWord op (modelBit c) v sel idx phase) = c := by
  unfold mField
  rw [getLsbD_commandWord]
  cases c <;> rfl

end Sys2Proof
end

