-- ==== Sys2Proof/Laws/Operands.lean ====
section
/-! SUPPORT. When an operand code names an element, and how slots and `BUILT` bits relate. -/

namespace Sys2Proof.Machine

/-- V names a variance class exactly when it is in range; otherwise BAD_VCLASS. -/
theorem vclassOperand_spec (v : BitVec 2) :
    (vInRange v = true ∧ ∃ c, vclassOperand v = .ok c ∧ (vclassIndex c).val = v.toNat)
      ∨ (vInRange v = false ∧ vclassOperand v = .error .badVclass) := by
  unfold vclassOperand vInRange
  split <;> simp_all [vclassIndex]
  all_goals omega

/-- SEL names a combination exactly when it is in range; otherwise BAD_SEL. -/
theorem combOperand_spec (sel : BitVec 3) :
    (combInRange sel = true ∧ ∃ c, combOperand sel = .ok c ∧ (combIndex c).val = sel.toNat)
      ∨ (combInRange sel = false ∧ combOperand sel = .error .badSel) := by
  unfold combOperand combInRange
  split <;> simp_all [combIndex]
  all_goals omega

/-- SEL of RDBASIC names a basic kind exactly when it is in range; otherwise BAD_SEL. -/
theorem kindOperand_spec (sel : BitVec 3) :
    (kindInRange sel = true ∧ ∃ k, kindOperand sel = .ok k ∧ (kindIndex k).val = sel.toNat)
      ∨ (kindInRange sel = false ∧ kindOperand sel = .error .badSel) := by
  unfold kindOperand kindInRange
  split <;> simp_all [kindIndex]
  all_goals omega

/-- IDX of RDPARAM names a field exactly when it is in range; otherwise BAD_IDX. -/
theorem fieldOperand_spec (idx : BitVec 5) :
    (fieldInRange idx = true ∧ ∃ f, fieldOperand idx = .ok f)
      ∨ (fieldInRange idx = false ∧ fieldOperand idx = .error .badIdx) := by
  unfold fieldOperand fieldInRange
  split <;> simp_all
  all_goals omega

/-- IDX of RDDIST names a weight exactly when it is in range; otherwise BAD_IDX. -/
theorem weightOperand_spec (idx : BitVec 5) :
    (weightInRange idx = true ∧ ∃ j : Fin 25, weightOperand idx = .ok j ∧ j.val = idx.toNat)
      ∨ (weightInRange idx = false ∧ weightOperand idx = .error .badIdx) := by
  unfold weightOperand weightInRange
  split
  · next h => exact .inl ⟨by simpa using Nat.le_of_lt_succ h, ⟨_, h⟩, rfl, rfl⟩
  · next h => exact .inr ⟨decide_eq_false (by omega), rfl⟩

/-- A code that is the index of a variance class names it. -/
theorem vclassOperand_of_index {v : BitVec 2} {k : VClass} (h : (vclassIndex k).val = v.toNat) :
    vclassOperand v = .ok k := by
  revert h; revert v; cases k <;> decide

/-- A code that is the index of a combination names it. -/
theorem combOperand_of_index {sel : BitVec 3} {c : Comb} (h : (combIndex c).val = sel.toNat) :
    combOperand sel = .ok c := by
  revert h; revert sel; cases c <;> decide

@[simp] theorem vclassOperand_three : vclassOperand 3#2 = .error .badVclass := rfl

/-- A code other than 3 names a variance class. -/
theorem vclassOperand_of_ne_three {v : BitVec 2} (h : v ≠ 3) :
    ∃ k, vclassOperand v = .ok k ∧ (vclassIndex k).val = v.toNat := by
  rcases vclassOperand_spec v with ⟨_, hk⟩ | ⟨hv, _⟩
  · exact hk
  · refine absurd (BitVec.eq_of_toNat_eq (y := 3#2) ?_) h
    simp only [vInRange, decide_eq_false_iff_not] at hv
    show v.toNat = 3
    omega

/-- Two keys share a slot only if they are the same key (rule R160). -/
theorem slotIndex_injective {m m' : ChipModel} {v v' : VClass} (h : slotIndex m v = slotIndex m' v') :
    m = m' ∧ v = v' := by
  revert h; cases m <;> cases m' <;> cases v <;> cases v' <;> decide

/-- Setting bit `s` changes bit `s` alone. -/
@[simp] theorem builtBit_setBuilt (b : BitVec 6) (s k : Fin 6) :
    builtBit (setBuilt b s) k = (decide (k = s) || builtBit b k) := by
  revert b s k; decide

/-- A miss raises the number of built slots by one. -/
theorem builtTotal_setBuilt {b : BitVec 6} {s : Fin 6} (h : builtBit b s = false) :
    builtTotal (setBuilt b s) = builtTotal b + 1 := by
  revert b s; decide

/-- There are six slots. -/
theorem builtTotal_le (b : BitVec 6) : builtTotal b ≤ 6 := by
  revert b; decide

/-- With a slot unbuilt, at most five are built. -/
theorem builtTotal_le_five {b : BitVec 6} {s : Fin 6} (h : builtBit b s = false) : builtTotal b ≤ 5 := by
  revert b s; decide

end Sys2Proof.Machine
end

