-- ==== Sys2Proof/Laws/State.lean ====
section
/-! SUPPORT. One lemma per field and update of the state, each true by definition, so that no later proof
unfolds a record update. -/

namespace Sys2Proof.Machine

/-! ### modifyPort -/

@[simp] theorem State.modifyPort_params (s : State) (p : Nat) (f : Port → Port) : (s.modifyPort p f).params = s.params := rfl
@[simp] theorem State.modifyPort_basicLut (s : State) (p : Nat) (f : Port → Port) : (s.modifyPort p f).basicLut = s.basicLut := rfl
@[simp] theorem State.modifyPort_combLut (s : State) (p : Nat) (f : Port → Port) : (s.modifyPort p f).combLut = s.combLut := rfl
@[simp] theorem State.modifyPort_built (s : State) (p : Nat) (f : Port → Port) : (s.modifyPort p f).built = s.built := rfl
@[simp] theorem State.modifyPort_buildCount (s : State) (p : Nat) (f : Port → Port) : (s.modifyPort p f).buildCount = s.buildCount := rfl
@[simp] theorem State.modifyPort_fault (s : State) (p : Nat) (f : Port → Port) : (s.modifyPort p f).fault = s.fault := rfl
@[simp] theorem State.modifyPort_faultCause (s : State) (p : Nat) (f : Port → Port) : (s.modifyPort p f).faultCause = s.faultCause := rfl
@[simp] theorem State.modifyPort_faultWord (s : State) (p : Nat) (f : Port → Port) : (s.modifyPort p f).faultWord = s.faultWord := rfl
@[simp] theorem State.modifyPort_cmd (s : State) (p : Nat) (f : Port → Port) : (s.modifyPort p f).cmd = s.cmd := rfl
@[simp] theorem State.modifyPort_events (s : State) (p : Nat) (f : Port → Port) : (s.modifyPort p f).events = s.events := rfl
@[simp] theorem State.modifyPort_resetEpoch (s : State) (p : Nat) (f : Port → Port) : (s.modifyPort p f).resetEpoch = s.resetEpoch := rfl
@[simp] theorem State.modifyPort_arbiterDraws (s : State) (p : Nat) (f : Port → Port) : (s.modifyPort p f).arbiterDraws = s.arbiterDraws := rfl
@[simp] theorem State.modifyPort_ports (s : State) (p : Nat) (f : Port → Port) :
    (s.modifyPort p f).ports = s.ports.modify p f := rfl

/-! ### respond -/

@[simp] theorem State.respond_params (s : State) (st : RspStatus) (d : Word) : (s.respond st d).params = s.params := rfl
@[simp] theorem State.respond_basicLut (s : State) (st : RspStatus) (d : Word) : (s.respond st d).basicLut = s.basicLut := rfl
@[simp] theorem State.respond_combLut (s : State) (st : RspStatus) (d : Word) : (s.respond st d).combLut = s.combLut := rfl
@[simp] theorem State.respond_built (s : State) (st : RspStatus) (d : Word) : (s.respond st d).built = s.built := rfl
@[simp] theorem State.respond_buildCount (s : State) (st : RspStatus) (d : Word) : (s.respond st d).buildCount = s.buildCount := rfl
@[simp] theorem State.respond_fault (s : State) (st : RspStatus) (d : Word) : (s.respond st d).fault = s.fault := rfl
@[simp] theorem State.respond_faultCause (s : State) (st : RspStatus) (d : Word) : (s.respond st d).faultCause = s.faultCause := rfl
@[simp] theorem State.respond_faultWord (s : State) (st : RspStatus) (d : Word) : (s.respond st d).faultWord = s.faultWord := rfl
@[simp] theorem State.respond_cmd (s : State) (st : RspStatus) (d : Word) : (s.respond st d).cmd = s.cmd := rfl
@[simp] theorem State.respond_events (s : State) (st : RspStatus) (d : Word) : (s.respond st d).events = s.events := rfl
@[simp] theorem State.respond_resetEpoch (s : State) (st : RspStatus) (d : Word) : (s.respond st d).resetEpoch = s.resetEpoch := rfl
@[simp] theorem State.respond_arbiterDraws (s : State) (st : RspStatus) (d : Word) : (s.respond st d).arbiterDraws = s.arbiterDraws := rfl
@[simp] theorem State.respond_ports (s : State) (st : RspStatus) (d : Word) :
    (s.respond st d).ports = s.ports.modify s.cmd.port fun port => { port with responses := port.responses ++ [⟨st, d⟩] } := rfl

/-! ### respondFaulted -/

@[simp] theorem State.respondFaulted_params (s : State) : (s.respondFaulted).params = s.params := rfl
@[simp] theorem State.respondFaulted_basicLut (s : State) : (s.respondFaulted).basicLut = s.basicLut := rfl
@[simp] theorem State.respondFaulted_combLut (s : State) : (s.respondFaulted).combLut = s.combLut := rfl
@[simp] theorem State.respondFaulted_built (s : State) : (s.respondFaulted).built = s.built := rfl
@[simp] theorem State.respondFaulted_buildCount (s : State) : (s.respondFaulted).buildCount = s.buildCount := rfl
@[simp] theorem State.respondFaulted_fault (s : State) : (s.respondFaulted).fault = s.fault := rfl
@[simp] theorem State.respondFaulted_faultCause (s : State) : (s.respondFaulted).faultCause = s.faultCause := rfl
@[simp] theorem State.respondFaulted_faultWord (s : State) : (s.respondFaulted).faultWord = s.faultWord := rfl
@[simp] theorem State.respondFaulted_cmd (s : State) : (s.respondFaulted).cmd = s.cmd := rfl
@[simp] theorem State.respondFaulted_events (s : State) : (s.respondFaulted).events = s.events := rfl
@[simp] theorem State.respondFaulted_resetEpoch (s : State) : (s.respondFaulted).resetEpoch = s.resetEpoch := rfl
@[simp] theorem State.respondFaulted_arbiterDraws (s : State) : (s.respondFaulted).arbiterDraws = s.arbiterDraws := rfl
@[simp] theorem State.respondFaulted_ports (s : State) :
    (s.respondFaulted).ports = (s.respond .faulted 0).ports := rfl

/-! ### raiseFault -/

@[simp] theorem State.raiseFault_params (s : State) (c : FaultCause) : (s.raiseFault c).params = s.params := rfl
@[simp] theorem State.raiseFault_basicLut (s : State) (c : FaultCause) : (s.raiseFault c).basicLut = s.basicLut := rfl
@[simp] theorem State.raiseFault_combLut (s : State) (c : FaultCause) : (s.raiseFault c).combLut = s.combLut := rfl
@[simp] theorem State.raiseFault_built (s : State) (c : FaultCause) : (s.raiseFault c).built = s.built := rfl
@[simp] theorem State.raiseFault_buildCount (s : State) (c : FaultCause) : (s.raiseFault c).buildCount = s.buildCount := rfl
@[simp] theorem State.raiseFault_cmd (s : State) (c : FaultCause) : (s.raiseFault c).cmd = s.cmd := rfl
@[simp] theorem State.raiseFault_events (s : State) (c : FaultCause) : (s.raiseFault c).events = s.events := rfl
@[simp] theorem State.raiseFault_resetEpoch (s : State) (c : FaultCause) : (s.raiseFault c).resetEpoch = s.resetEpoch := rfl
@[simp] theorem State.raiseFault_arbiterDraws (s : State) (c : FaultCause) : (s.raiseFault c).arbiterDraws = s.arbiterDraws := rfl
@[simp] theorem State.raiseFault_fault (s : State) (c : FaultCause) : (s.raiseFault c).fault = true := rfl
@[simp] theorem State.raiseFault_faultCause (s : State) (c : FaultCause) :
    (s.raiseFault c).faultCause = c := rfl
@[simp] theorem State.raiseFault_faultWord (s : State) (c : FaultCause) :
    (s.raiseFault c).faultWord = s.cmd.word := rfl
@[simp] theorem State.raiseFault_ports (s : State) (c : FaultCause) :
    (s.raiseFault c).ports = (s.respond .fault ((causeCode c).setWidth 32)).ports := rfl

/-! ### fillSlot -/

@[simp] theorem State.fillSlot_params (s : State) (m : ChipModel) (v : VClass) : (s.fillSlot m v).params = s.params := rfl
@[simp] theorem State.fillSlot_basicLut (s : State) (m : ChipModel) (v : VClass) : (s.fillSlot m v).basicLut = s.basicLut := rfl
@[simp] theorem State.fillSlot_fault (s : State) (m : ChipModel) (v : VClass) : (s.fillSlot m v).fault = s.fault := rfl
@[simp] theorem State.fillSlot_faultCause (s : State) (m : ChipModel) (v : VClass) : (s.fillSlot m v).faultCause = s.faultCause := rfl
@[simp] theorem State.fillSlot_faultWord (s : State) (m : ChipModel) (v : VClass) : (s.fillSlot m v).faultWord = s.faultWord := rfl
@[simp] theorem State.fillSlot_ports (s : State) (m : ChipModel) (v : VClass) : (s.fillSlot m v).ports = s.ports := rfl
@[simp] theorem State.fillSlot_cmd (s : State) (m : ChipModel) (v : VClass) : (s.fillSlot m v).cmd = s.cmd := rfl
@[simp] theorem State.fillSlot_events (s : State) (m : ChipModel) (v : VClass) : (s.fillSlot m v).events = s.events := rfl
@[simp] theorem State.fillSlot_resetEpoch (s : State) (m : ChipModel) (v : VClass) : (s.fillSlot m v).resetEpoch = s.resetEpoch := rfl
@[simp] theorem State.fillSlot_arbiterDraws (s : State) (m : ChipModel) (v : VClass) : (s.fillSlot m v).arbiterDraws = s.arbiterDraws := rfl
@[simp] theorem State.fillSlot_built (s : State) (m : ChipModel) (v : VClass) :
    (s.fillSlot m v).built = setBuilt s.built (slotIndex m v) := rfl
@[simp] theorem State.fillSlot_buildCount (s : State) (m : ChipModel) (v : VClass) :
    (s.fillSlot m v).buildCount = s.buildCount + 1 := rfl

/-! ### resetBlock -/

@[simp] theorem State.resetBlock_params (s : State) : (s.resetBlock).params = s.params := rfl
@[simp] theorem State.resetBlock_basicLut (s : State) : (s.resetBlock).basicLut = s.basicLut := rfl
@[simp] theorem State.resetBlock_events (s : State) : (s.resetBlock).events = s.events := rfl
@[simp] theorem State.resetBlock_combLut (s : State) :
    (s.resetBlock).combLut = unspecifiedTables (s.resetEpoch + 1) := rfl
@[simp] theorem State.resetBlock_built (s : State) : (s.resetBlock).built = 0 := rfl
@[simp] theorem State.resetBlock_buildCount (s : State) : (s.resetBlock).buildCount = 0 := rfl
@[simp] theorem State.resetBlock_fault (s : State) : (s.resetBlock).fault = false := rfl
@[simp] theorem State.resetBlock_faultCause (s : State) : (s.resetBlock).faultCause = .noFault := rfl
@[simp] theorem State.resetBlock_faultWord (s : State) : (s.resetBlock).faultWord = 0 := rfl
@[simp] theorem State.resetBlock_ports (s : State) :
    (s.resetBlock).ports = s.ports.map Port.discardInFlight := rfl
@[simp] theorem State.resetBlock_cmd (s : State) : (s.resetBlock).cmd = ⟨0, 0⟩ := rfl
@[simp] theorem State.resetBlock_resetEpoch (s : State) : (s.resetBlock).resetEpoch = s.resetEpoch + 1 := rfl
@[simp] theorem State.resetBlock_arbiterDraws (s : State) : (s.resetBlock).arbiterDraws = s.arbiterDraws := rfl

/-! ### withFetchWord -/

@[simp] theorem State.withFetchWord_params (s : State) (n w : Nat) : (s.withFetchWord n w).params = s.params := rfl
@[simp] theorem State.withFetchWord_basicLut (s : State) (n w : Nat) : (s.withFetchWord n w).basicLut = s.basicLut := rfl
@[simp] theorem State.withFetchWord_combLut (s : State) (n w : Nat) : (s.withFetchWord n w).combLut = s.combLut := rfl
@[simp] theorem State.withFetchWord_built (s : State) (n w : Nat) : (s.withFetchWord n w).built = s.built := rfl
@[simp] theorem State.withFetchWord_buildCount (s : State) (n w : Nat) : (s.withFetchWord n w).buildCount = s.buildCount := rfl
@[simp] theorem State.withFetchWord_fault (s : State) (n w : Nat) : (s.withFetchWord n w).fault = s.fault := rfl
@[simp] theorem State.withFetchWord_faultCause (s : State) (n w : Nat) : (s.withFetchWord n w).faultCause = s.faultCause := rfl
@[simp] theorem State.withFetchWord_faultWord (s : State) (n w : Nat) : (s.withFetchWord n w).faultWord = s.faultWord := rfl
@[simp] theorem State.withFetchWord_cmd (s : State) (n w : Nat) : (s.withFetchWord n w).cmd = s.cmd := rfl
@[simp] theorem State.withFetchWord_resetEpoch (s : State) (n w : Nat) : (s.withFetchWord n w).resetEpoch = s.resetEpoch := rfl
@[simp] theorem State.withFetchWord_arbiterDraws (s : State) (n w : Nat) : (s.withFetchWord n w).arbiterDraws = s.arbiterDraws := rfl
@[simp] theorem State.withFetchWord_ports (s : State) (n w : Nat) :
    (s.withFetchWord n w).ports = placeAccepted (tableWord n w) s.ports := rfl
@[simp] theorem State.withFetchWord_events (s : State) (n w : Nat) :
    (s.withFetchWord n w).events = .perform 0 :: s.events := rfl

/-! ### advance and takeUp -/

@[simp] theorem State.advance_params (s : State) (rest : List Event) : (s.advance rest).params = s.params := rfl
@[simp] theorem State.advance_basicLut (s : State) (rest : List Event) : (s.advance rest).basicLut = s.basicLut := rfl
@[simp] theorem State.advance_combLut (s : State) (rest : List Event) : (s.advance rest).combLut = s.combLut := rfl
@[simp] theorem State.advance_built (s : State) (rest : List Event) : (s.advance rest).built = s.built := rfl
@[simp] theorem State.advance_buildCount (s : State) (rest : List Event) : (s.advance rest).buildCount = s.buildCount := rfl
@[simp] theorem State.advance_fault (s : State) (rest : List Event) : (s.advance rest).fault = s.fault := rfl
@[simp] theorem State.advance_faultCause (s : State) (rest : List Event) : (s.advance rest).faultCause = s.faultCause := rfl
@[simp] theorem State.advance_faultWord (s : State) (rest : List Event) : (s.advance rest).faultWord = s.faultWord := rfl
@[simp] theorem State.advance_ports (s : State) (rest : List Event) : (s.advance rest).ports = s.ports := rfl
@[simp] theorem State.advance_cmd (s : State) (rest : List Event) : (s.advance rest).cmd = s.cmd := rfl
@[simp] theorem State.advance_events (s : State) (rest : List Event) : (s.advance rest).events = rest := rfl
@[simp] theorem State.advance_resetEpoch (s : State) (rest : List Event) : (s.advance rest).resetEpoch = s.resetEpoch := rfl
@[simp] theorem State.advance_arbiterDraws (s : State) (rest : List Event) : (s.advance rest).arbiterDraws = s.arbiterDraws := rfl

@[simp] theorem State.takeUp_params (s : State) (p : Nat) (port : Port) (w : Word) (ws : List Word) :
    (s.takeUp p port w ws).params = s.params := rfl
@[simp] theorem State.takeUp_basicLut (s : State) (p : Nat) (port : Port) (w : Word) (ws : List Word) :
    (s.takeUp p port w ws).basicLut = s.basicLut := rfl
@[simp] theorem State.takeUp_combLut (s : State) (p : Nat) (port : Port) (w : Word) (ws : List Word) :
    (s.takeUp p port w ws).combLut = s.combLut := rfl
@[simp] theorem State.takeUp_built (s : State) (p : Nat) (port : Port) (w : Word) (ws : List Word) :
    (s.takeUp p port w ws).built = s.built := rfl
@[simp] theorem State.takeUp_buildCount (s : State) (p : Nat) (port : Port) (w : Word) (ws : List Word) :
    (s.takeUp p port w ws).buildCount = s.buildCount := rfl
@[simp] theorem State.takeUp_fault (s : State) (p : Nat) (port : Port) (w : Word) (ws : List Word) :
    (s.takeUp p port w ws).fault = s.fault := rfl
@[simp] theorem State.takeUp_faultCause (s : State) (p : Nat) (port : Port) (w : Word) (ws : List Word) :
    (s.takeUp p port w ws).faultCause = s.faultCause := rfl
@[simp] theorem State.takeUp_faultWord (s : State) (p : Nat) (port : Port) (w : Word) (ws : List Word) :
    (s.takeUp p port w ws).faultWord = s.faultWord := rfl
@[simp] theorem State.takeUp_ports (s : State) (p : Nat) (port : Port) (w : Word) (ws : List Word) :
    (s.takeUp p port w ws).ports = s.ports.set p { port with accepted := ws } := rfl
@[simp] theorem State.takeUp_cmd (s : State) (p : Nat) (port : Port) (w : Word) (ws : List Word) :
    (s.takeUp p port w ws).cmd = ⟨p, w⟩ := rfl
@[simp] theorem State.takeUp_events (s : State) (p : Nat) (port : Port) (w : Word) (ws : List Word) :
    (s.takeUp p port w ws).events = s.events := rfl
@[simp] theorem State.takeUp_resetEpoch (s : State) (p : Nat) (port : Port) (w : Word) (ws : List Word) :
    (s.takeUp p port w ws).resetEpoch = s.resetEpoch := rfl
@[simp] theorem State.takeUp_arbiterDraws (s : State) (p : Nat) (port : Port) (w : Word) (ws : List Word) :
    (s.takeUp p port w ws).arbiterDraws = s.arbiterDraws := rfl

/-! ### drawArbiter -/

@[simp] theorem State.drawArbiter_params (s : State) : (s.drawArbiter).params = s.params := rfl
@[simp] theorem State.drawArbiter_basicLut (s : State) : (s.drawArbiter).basicLut = s.basicLut := rfl
@[simp] theorem State.drawArbiter_combLut (s : State) : (s.drawArbiter).combLut = s.combLut := rfl
@[simp] theorem State.drawArbiter_built (s : State) : (s.drawArbiter).built = s.built := rfl
@[simp] theorem State.drawArbiter_buildCount (s : State) : (s.drawArbiter).buildCount = s.buildCount := rfl
@[simp] theorem State.drawArbiter_fault (s : State) : (s.drawArbiter).fault = s.fault := rfl
@[simp] theorem State.drawArbiter_faultCause (s : State) : (s.drawArbiter).faultCause = s.faultCause := rfl
@[simp] theorem State.drawArbiter_faultWord (s : State) : (s.drawArbiter).faultWord = s.faultWord := rfl
@[simp] theorem State.drawArbiter_ports (s : State) : (s.drawArbiter).ports = s.ports := rfl
@[simp] theorem State.drawArbiter_cmd (s : State) : (s.drawArbiter).cmd = s.cmd := rfl
@[simp] theorem State.drawArbiter_events (s : State) : (s.drawArbiter).events = s.events := rfl
@[simp] theorem State.drawArbiter_resetEpoch (s : State) : (s.drawArbiter).resetEpoch = s.resetEpoch := rfl
@[simp] theorem State.drawArbiter_arbiterDraws (s : State) : (s.drawArbiter).arbiterDraws = s.arbiterDraws + 1 := rfl

/-! ### Updates that choose -/

@[simp] theorem State.unlessFaulted_of_true {s t : State} (h : s.fault = true) :
    s.unlessFaulted t = s.respondFaulted := by simp [State.unlessFaulted, h]

@[simp] theorem State.unlessFaulted_of_false {s t : State} (h : s.fault = false) :
    s.unlessFaulted t = t := by simp [State.unlessFaulted, h]

@[simp] theorem State.answer_ok (s : State) (d : Word) : s.answer (.ok d) = s.respond .ok d := rfl

@[simp] theorem State.answer_error (s : State) (c : FaultCause) : s.answer (.error c) = s.raiseFault c := rfl

/-! ### Ports -/

@[simp] theorem Port.acceptOffer_responses (port : Port) (n : Nat) :
    (port.acceptOffer n).responses = port.responses := by
  unfold Port.acceptOffer; split
  · rfl
  · split <;> rfl

@[simp] theorem Port.acceptOffer_delivered (port : Port) (n : Nat) :
    (port.acceptOffer n).delivered = port.delivered := by
  unfold Port.acceptOffer; split
  · rfl
  · split <;> rfl

@[simp] theorem Port.deliverResponse_offers (port : Port) : port.deliverResponse.offers = port.offers := by
  unfold Port.deliverResponse; split <;> rfl

@[simp] theorem Port.deliverResponse_accepted (port : Port) : port.deliverResponse.accepted = port.accepted := by
  unfold Port.deliverResponse; split <;> rfl

@[simp] theorem Port.discardInFlight_offers (port : Port) : port.discardInFlight.offers = port.offers := rfl
@[simp] theorem Port.discardInFlight_accepted (port : Port) : port.discardInFlight.accepted = [] := rfl
@[simp] theorem Port.discardInFlight_responses (port : Port) : port.discardInFlight.responses = [] := rfl
@[simp] theorem Port.discardInFlight_delivered (port : Port) :
    port.discardInFlight.delivered = port.delivered := rfl

@[simp] theorem Port.outstanding_idle : Port.idle.outstanding = 0 := rfl

end Sys2Proof.Machine
end

