-- ==== Sys2Proof/Laws/Tables.lean ====
section
/-! SUPPORT. What a read of a table gives: the element the table was made from. -/

namespace Sys2Proof.Machine

@[simp] theorem getElem_tabulate {α : Type} (n : Nat) (f : Fin n → α) (i : Nat) (h : i < n) :
    (tabulate n f)[i] = f ⟨i, h⟩ := by simp [tabulate]

@[simp] theorem sampleAt_rowOf (f : Phase → Sample) (p : Phase) : sampleAt (rowOf f) p = f p := by
  simp [sampleAt, rowOf]

theorem sampleAt_builtTables (n : Numerics) (es : Vector ParamEntry 5) (c : Fin 5) (p : Phase) :
    sampleAt (builtTables n es)[c] p = pulldownCalc n es[c] p := by
  simp [builtTables]

/-- The samples `BASIC_LUT` is filled with, kind by kind. -/
theorem sampleAt_basicContents (k : BasicKind) (p : Phase) :
    sampleAt basicContents[kindIndex k] p
      = match k with
        | .high => 0xFFF
        | .tri => basicTriangle p
        | .saw => p
        | .pas => p &&& (p <<< 1) := by
  cases k
  · exact sampleAt_rowOf basicHigh p
  · exact sampleAt_rowOf basicTriangle p
  · exact sampleAt_rowOf basicSawtooth p
  · exact sampleAt_rowOf basicPulseAndShift p

end Sys2Proof.Machine
end

