-- ==== Sys2Proof/Laws/Ops.lean ====
section
/-! SUPPORT. One lemma per shared operation that says everything it can do, and the inversion lemmas of
`exec` and `step` that later proofs split on instead of unfolding them. -/

namespace Sys2Proof.Machine

/-- What the filled slot reads as (rule R161). -/
@[simp] theorem State.readComb_fillSlot_same (s : State) (m : ChipModel) (v : VClass) (c : Comb)
    (p : Phase) :
    (s.fillSlot m v).readComb (slotIndex m v) c p
      = pulldownCalc s.params.numerics (romEntry s.params.paramRom m v c) p := by
  simp [State.readComb, State.fillSlot, romEntry, builtTables]

/-- Filling a slot leaves every other slot as it is. -/
theorem State.combLut_fillSlot_other (s : State) (m : ChipModel) (v : VClass) {k : Fin 6}
    (h : k ≠ slotIndex m v) : (s.fillSlot m v).combLut[k] = s.combLut[k] := by
  have : (slotIndex m v).val ≠ k.val := fun e => h (Fin.ext e.symm)
  simp [State.fillSlot, this]

theorem State.readComb_fillSlot_other (s : State) (m : ChipModel) (v : VClass) {k : Fin 6}
    (h : k ≠ slotIndex m v) (c : Comb) (p : Phase) :
    (s.fillSlot m v).readComb k c p = s.readComb k c p := by
  rw [State.readComb, State.readComb, s.combLut_fillSlot_other m v h]

/-- A read depends on the store alone. -/
theorem State.readComb_congr {s t : State} (h : t.combLut = s.combLut) (k : Fin 6) (c : Comb)
    (p : Phase) : t.readComb k c p = s.readComb k c p := by
  rw [State.readComb, State.readComb, h]

/-- A response changes no port but the one of the command. -/
theorem State.respond_other_port (s : State) (st : RspStatus) (d : Word) {q : Nat}
    (h : q ≠ s.cmd.port) : (s.respond st d).ports[q]? = s.ports[q]? := by
  simp [Ne.symm h]

/-- A response joins the responses of the command's port, at the end. -/
theorem State.respond_own_port (s : State) (st : RspStatus) (d : Word) {port : Port}
    (h : s.ports[s.cmd.port]? = some port) :
    (s.respond st d).ports[s.cmd.port]?
      = some { port with responses := port.responses ++ [⟨st, d⟩] } := by
  simp [h]

/-- Taking up a command: the port's oldest accepted word leaves the queue and becomes the command. -/
theorem State.takeCommand_eq_some {s t : State} {p : Nat} (h : s.takeCommand p = some t) :
    ∃ port w rest, s.ports[p]? = some port ∧ port.accepted = w :: rest
      ∧ t = s.takeUp p port w rest := by
  unfold State.takeCommand at h
  split at h
  · cases h
  · rename_i port hp
    split at h
    · cases h
    · rename_i w rest ha
      exact ⟨port, w, rest, hp, ha, (Option.some.inj h).symm⟩

/-- No command is taken up only where the port has none. -/
theorem State.accepted_of_takeCommand_eq_none {s : State} {p : Nat} {port : Port}
    (h : s.takeCommand p = none) (hp : s.ports[p]? = some port) : port.accepted = [] := by
  simp only [State.takeCommand, hp] at h
  split at h
  · assumption
  · cases h

theorem State.takeCommand_of_accepted {s : State} {p : Nat} {port : Port} {w : Word} {rest : List Word}
    (hp : s.ports[p]? = some port) (ha : port.accepted = w :: rest) :
    s.takeCommand p = some (s.takeUp p port w rest) := by
  simp [State.takeCommand, hp, ha]

theorem vclassOperand_error {v : BitVec 2} {c : FaultCause} (h : vclassOperand v = .error c) :
    c ≠ .noFault := by revert v; cases c <;> decide

theorem combOperand_error {sel : BitVec 3} {c : FaultCause} (h : combOperand sel = .error c) :
    c ≠ .noFault := by revert sel; cases c <;> decide

theorem kindOperand_error {sel : BitVec 3} {c : FaultCause} (h : kindOperand sel = .error c) :
    c ≠ .noFault := by revert sel; cases c <;> decide

theorem fieldOperand_error {idx : BitVec 5} {c : FaultCause} (h : fieldOperand idx = .error c) :
    c ≠ .noFault := by revert idx; cases c <;> decide

theorem weightOperand_error {idx : BitVec 5} {c : FaultCause} (h : weightOperand idx = .error c) :
    c ≠ .noFault := by revert idx; cases c <;> decide

theorem State.entryOperand_error {s : State} {m : ChipModel} {v : BitVec 2} {sel : BitVec 3}
    {c : FaultCause} (h : s.entryOperand m v sel = .error c) : c ≠ .noFault := by
  unfold State.entryOperand at h
  split at h
  · next hv => cases h; exact vclassOperand_error hv
  · split at h
    · next hs => cases h; exact combOperand_error hs
    · cases h

theorem State.combOperands_error {s : State} {m : ChipModel} {v : BitVec 2} {sel : BitVec 3} {p : Phase}
    {c : FaultCause} (h : s.combOperands m v sel p = .error c) : c ≠ .noFault := by
  unfold State.combOperands at h
  split at h
  · next hv => cases h; exact vclassOperand_error hv
  · split at h
    · next hs => cases h; exact combOperand_error hs
    · split at h <;> cases h
      decide

/-- What one command can do to the state: it responds; or, the block not being faulted, it enters a
fault, or it fills a slot that was not built. -/
inductive CommandEffect (s t : State) : Prop where
  | responds (st : RspStatus) (d : Word) (h : t = s.respond st d)
  | faults (c : FaultCause) (clear : s.fault = false) (named : c ≠ .noFault) (h : t = s.raiseFault c)
  | fills (m : ChipModel) (v : VClass) (clear : s.fault = false)
      (miss : builtBit s.built (slotIndex m v) = false)
      (h : t = (s.fillSlot m v).respond .ok (buildData (slotIndex m v) false))

/-- The lock-out turns any effect into one of a faulted block. -/
theorem CommandEffect.unlessFaulted {s t : State} (h : s.fault = false → CommandEffect s t) :
    CommandEffect s (s.unlessFaulted t) := by
  cases hf : s.fault
  · simpa [hf] using h hf
  · exact .responds .faulted 0 (by simp [hf, State.respondFaulted])

/-- A read responds or faults. -/
theorem CommandEffect.answer {s : State} {r : Except FaultCause Word} (clear : s.fault = false)
    (named : ∀ c, r = .error c → c ≠ .noFault) : CommandEffect s (s.answer r) := by
  cases r with
  | ok d => exact .responds .ok d rfl
  | error c => exact .faults c clear (named c rfl) rfl

/-- Everything `exec` can do, command by command. -/
theorem exec_effect (i : Instr) (s : State) : ∃ t, exec i s = .next t ∧ CommandEffect s t := by
  cases i with
  | nop => exact ⟨_, rfl, .responds _ _ rfl⟩
  | status => exact ⟨_, rfl, .responds _ _ rfl⟩
  | rdfault => exact ⟨_, rfl, .responds _ _ rfl⟩
  | rdbasic sel p =>
    refine ⟨_, rfl, .unlessFaulted fun hf => .answer hf fun c hc => ?_⟩
    cases hk : kindOperand sel <;> simp [hk, Except.map] at hc
    exact hc ▸ kindOperand_error hk
  | build m v =>
    refine ⟨_, rfl, .unlessFaulted fun hf => ?_⟩
    split
    · next c hv => exact .faults c hf (vclassOperand_error hv) rfl
    · next v' hv =>
      unfold State.buildOrHit
      split
      · exact .responds _ _ rfl
      · next hb => exact .fills m v' hf (by simpa using hb) rfl
  | rdcomb m v sel p =>
    exact ⟨_, rfl, .unlessFaulted fun hf => .answer hf fun c hc => State.combOperands_error hc⟩
  | calculate m v sel p =>
    refine ⟨_, rfl, .unlessFaulted fun hf => .answer hf fun c hc => ?_⟩
    cases he : s.entryOperand m v sel <;> simp [he, Except.map] at hc
    exact hc ▸ State.entryOperand_error he
  | rdparam m v sel idx =>
    refine ⟨_, rfl, .unlessFaulted fun hf => .answer hf fun c hc => ?_⟩
    split at hc
    · next he => cases hc; exact State.entryOperand_error he
    · cases hk : fieldOperand idx <;> simp [hk, Except.map] at hc
      exact hc ▸ fieldOperand_error hk
  | rddist m v sel idx =>
    refine ⟨_, rfl, .unlessFaulted fun hf => .answer hf fun c hc => ?_⟩
    split at hc
    · next he => cases hc; exact State.entryOperand_error he
    · cases hk : weightOperand idx <;> simp [hk, Except.map] at hc
      exact hc ▸ weightOperand_error hk

/-- Everything performing a word can do, whether it decodes or not. -/
theorem runCommand_effect (s : State) : ∃ t, runCommand s = .next t ∧ CommandEffect s t := by
  unfold runCommand
  split
  · exact exec_effect _ s
  · next e _ =>
    refine ⟨_, rfl, .unlessFaulted fun hf => .faults _ hf ?_ rfl⟩
    cases e <;> decide

/-- The cases of one event. -/
inductive EventEffect (s t : State) : Event → Prop where
  | accepts (p : Nat) (h : t = s.modifyPort p fun port => port.acceptOffer s.params.maxOutstanding) :
      EventEffect s t (.accept p)
  | skips (p : Nat) (none : ∀ port, s.ports[p]? = some port → port.accepted = []) (h : t = s) :
      EventEffect s t (.perform p)
  | performs (p : Nat) (port : Port) (w : Word) (ws : List Word) (hp : s.ports[p]? = some port)
      (ha : port.accepted = w :: ws) (h : CommandEffect (s.takeUp p port w ws) t) :
      EventEffect s t (.perform p)
  | delivers (p : Nat) (h : t = s.modifyPort p Port.deliverResponse) : EventEffect s t (.deliver p)
  | resets (h : t = s.resetBlock) : EventEffect s t .reset

/-- Everything an event can do. -/
theorem stepEvent_effect (e : Event) (s : State) :
    ∃ t, stepEvent e s = .next t ∧ EventEffect s t e := by
  cases e with
  | accept p => exact ⟨_, rfl, .accepts p rfl⟩
  | deliver p => exact ⟨_, rfl, .delivers p rfl⟩
  | reset => exact ⟨_, rfl, .resets rfl⟩
  | perform p =>
    simp only [stepEvent]
    split
    · next hu => exact ⟨_, rfl, .skips p (fun port hp => State.accepted_of_takeCommand_eq_none hu hp) rfl⟩
    · next u hu =>
      obtain ⟨port, w, ws, hp, ha, rfl⟩ := State.takeCommand_eq_some hu
      obtain ⟨t, ht, he⟩ := runCommand_effect (s.takeUp p port w ws)
      exact ⟨t, ht, .performs p port w ws hp ha he⟩

/-- A move the block owes is an acceptance or a performing that its port can take. -/
theorem State.mem_owedMoves {s : State} {e : Event} : e ∈ s.owedMoves ↔ ∃ p port, s.ports[p]? = some port ∧
    ((e = .accept p ∧ port.owedAccept s.params.maxOutstanding = true)
      ∨ (e = .perform p ∧ port.owedResponse = true)) := by
  simp only [State.owedMoves, Port.owedMoves, List.mem_flatMap, List.mem_zipIdx_iff_getElem?, List.mem_append,
    List.mem_ite_nil_right, List.mem_cons, List.not_mem_nil, or_false, Prod.exists]
  constructor
  · rintro ⟨port, p, hp, ⟨ha, rfl⟩ | ⟨ha, rfl⟩⟩
    · exact ⟨p, port, hp, .inl ⟨rfl, ha⟩⟩
    · exact ⟨p, port, hp, .inr ⟨rfl, ha⟩⟩
  · rintro ⟨p, port, hp, ⟨rfl, ha⟩ | ⟨rfl, ha⟩⟩
    · exact ⟨port, p, hp, .inl ⟨ha, rfl⟩⟩
    · exact ⟨port, p, hp, .inr ⟨ha, rfl⟩⟩

/-- The arbiter chooses an owed move. -/
theorem State.mem_of_ownMove {s : State} {e : Event} (h : s.ownMove = some e) : e ∈ s.owedMoves :=
  List.mem_of_getElem? h

/-- The arbiter chooses none only where none is owed. -/
theorem State.ownMove_eq_none {s : State} : s.ownMove = none ↔ s.owedMoves = [] := by
  simp only [State.ownMove, List.getElem?_eq_none_iff]
  constructor
  · intro h
    by_contra hne
    exact absurd (Nat.mod_lt (Config.arbiterPick s.arbiterDraws) (List.length_pos_iff.2 hne)) (by omega)
  · intro h; simp [h]

/-- The cases of one step. -/
inductive StepEffect (s t : State) : Prop where
  | idle (quiet : s.events = []) (none : s.owedMoves = []) (h : t = s)
  | owes (e : Event) (quiet : s.events = []) (owed : e ∈ s.owedMoves) (h : EventEffect s.drawArbiter t e)
  | takes (e : Event) (rest : List Event) (ev : s.events = e :: rest) (h : EventEffect (s.advance rest) t e)

/-- Everything a step can do. -/
theorem step_effect (s : State) : ∃ t, step s = .next t ∧ StepEffect s t := by
  unfold step
  split
  · next quiet =>
    split
    · next h => exact ⟨s, rfl, .idle quiet (State.ownMove_eq_none.1 h) rfl⟩
    · next e h =>
      obtain ⟨t, ht, he⟩ := stepEvent_effect e s.drawArbiter
      exact ⟨t, ht, .owes e quiet (State.mem_of_ownMove h) he⟩
  · next e rest h =>
    obtain ⟨t, ht, he⟩ := stepEvent_effect e (s.advance rest)
    exact ⟨t, ht, .takes e rest h he⟩

/-- The cases of a step that is known to answer `t`. -/
theorem StepEffect.of_step {s t : State} (h : step s = .next t) : StepEffect s t := by
  obtain ⟨u, hu, he⟩ := step_effect s
  rw [h] at hu
  cases hu
  exact he

/-- The cases of a command that is known to answer `t`. -/
theorem CommandEffect.of_exec {i : Instr} {s t : State} (h : exec i s = .next t) : CommandEffect s t := by
  obtain ⟨u, hu, he⟩ := exec_effect i s
  rw [h] at hu
  cases hu
  exact he

end Sys2Proof.Machine
end

