-- ==== Sys2Proof/Laws/PerInstr.lean ====
section
/-! SUPPORT. Statements for all commands, one lemma per constructor. -/

namespace Sys2Proof.Laws.EncodeMatchesRow

/-- The word the encoder writes matches the command's row of the opcode map under its mask (R84). -/
def Statement (i : Instr) : Prop := encode i &&& (opcodeRow i).2 = (opcodeRow i).1

/-- Masking a concatenation masks its parts. -/
theorem append_and_append {n k : Nat} (a c : BitVec n) (b d : BitVec k) :
    (a ++ b) &&& (c ++ d) = (a &&& c) ++ (b &&& d) := by
  ext i
  simp only [BitVec.getElem_and, BitVec.getElem_append]
  split <;> rfl

/-- A word written field by field, masked field by field. -/
theorem commandWord_and (op op' : BitVec 4) (m m' : BitVec 1) (v v' : BitVec 2) (sel sel' : BitVec 3)
    (idx idx' rsv' : BitVec 5) (phase phase' : Phase) :
    commandWord op m v sel idx phase &&& (op' ++ m' ++ v' ++ sel' ++ idx' ++ rsv' ++ phase')
      = commandWord (op &&& op') (m &&& m') (v &&& v') (sel &&& sel') (idx &&& idx')
          (phase &&& phase') := by
  refine (append_and_append (op ++ m ++ v ++ sel ++ idx ++ (0 : BitVec 5))
    (op' ++ m' ++ v' ++ sel' ++ idx' ++ rsv') phase phase').trans ?_
  rw [append_and_append, append_and_append, append_and_append, append_and_append, append_and_append,
    show (0 : BitVec 5) &&& rsv' = 0 from BitVec.zero_and]
  rfl

/-- The row matches if its mask cuts the word written down to its match value. -/
theorem matches_of_fields {op : BitVec 4} {m m' : BitVec 1} {v v' : BitVec 2} {sel sel' : BitVec 3}
    {idx idx' rsv' : BitVec 5} {phase phase' : Phase} {row : Word × Word}
    (mask : row.2 = (0xF : BitVec 4) ++ m' ++ v' ++ sel' ++ idx' ++ rsv' ++ phase')
    (val : row.1 = commandWord op 0 0 0 0 0)
    (hm : m &&& m' = 0) (hv : v &&& v' = 0) (hs : sel &&& sel' = 0) (hi : idx &&& idx' = 0)
    (hp : phase &&& phase' = 0) : commandWord op m v sel idx phase &&& row.2 = row.1 := by
  rw [mask, val, commandWord_and, hm, hv, hs, hi, hp]
  congr 1
  exact BitVec.and_allOnes (x := op)

theorem nop : Statement .nop := rfl

theorem status : Statement .status := rfl

theorem rdbasic (sel : BitVec 3) (phase : Phase) : Statement (.rdbasic sel phase) :=
  matches_of_fields (m' := 1) (v' := 3) (sel' := 0) (idx' := 0x1F) (rsv' := 0x1F) (phase' := 0)
    rfl rfl (by decide) (by decide) (by simp) (by decide) (by simp)

theorem build (m : ChipModel) (v : BitVec 2) : Statement (.build m v) :=
  matches_of_fields (m' := 0) (v' := 0) (sel' := 7) (idx' := 0x1F) (rsv' := 0x1F) (phase' := 0xFFF)
    rfl rfl (by simp) (by simp) (by decide) (by decide) (by decide)

theorem rdcomb (m : ChipModel) (v : BitVec 2) (sel : BitVec 3) (phase : Phase) :
    Statement (.rdcomb m v sel phase) :=
  matches_of_fields (m' := 0) (v' := 0) (sel' := 0) (idx' := 0x1F) (rsv' := 0x1F) (phase' := 0)
    rfl rfl (by simp) (by simp) (by simp) (by decide) (by simp)

theorem calculate (m : ChipModel) (v : BitVec 2) (sel : BitVec 3) (phase : Phase) :
    Statement (.calculate m v sel phase) :=
  matches_of_fields (m' := 0) (v' := 0) (sel' := 0) (idx' := 0x1F) (rsv' := 0x1F) (phase' := 0)
    rfl rfl (by simp) (by simp) (by simp) (by decide) (by simp)

theorem rdparam (m : ChipModel) (v : BitVec 2) (sel : BitVec 3) (idx : BitVec 5) :
    Statement (.rdparam m v sel idx) :=
  matches_of_fields (m' := 0) (v' := 0) (sel' := 0) (idx' := 0) (rsv' := 0x1F) (phase' := 0xFFF)
    rfl rfl (by simp) (by simp) (by simp) (by simp) (by decide)

theorem rddist (m : ChipModel) (v : BitVec 2) (sel : BitVec 3) (idx : BitVec 5) :
    Statement (.rddist m v sel idx) :=
  matches_of_fields (m' := 0) (v' := 0) (sel' := 0) (idx' := 0) (rsv' := 0x1F) (phase' := 0xFFF)
    rfl rfl (by simp) (by simp) (by simp) (by simp) (by decide)

theorem rdfault : Statement .rdfault := rfl

end Sys2Proof.Laws.EncodeMatchesRow
end

