-- ==== Sys2Proof/Laws/Pulldown.lean ====
section
/-! SUPPORT. The bits of an assembled sample (rule R135). -/

namespace Sys2Proof.Machine

/-- The bit of one power of two. -/
theorem getLsbD_bitAt (i k : Fin 12) : (1#12 <<< i.val).getLsbD k.val = decide (k = i) := by
  revert i k; decide

/-- Or-ing in the bits of a list of positions sets exactly those of them that are output bits. -/
theorem getLsbD_orBits (out : Fin 12 → Bool) (l : List (Fin 12)) (v : Sample) (k : Fin 12) :
    (l.foldl (fun value sb => if out sb then value ||| (1#12 <<< sb.val) else value) v).getLsbD k.val
      = (v.getLsbD k.val || (out k && decide (k ∈ l))) := by
  induction l generalizing v with
  | nil => simp
  | cons sb l ih =>
    have head : (if out sb then v ||| (1#12 <<< sb.val) else v).getLsbD k.val
        = (v.getLsbD k.val || (out sb && decide (k = sb))) := by
      cases out sb
      · simp
      · rw [if_pos rfl, BitVec.getLsbD_or, getLsbD_bitAt, Bool.true_and]
    rw [List.foldl_cons, ih, head, Bool.or_assoc]
    by_cases hk : k = sb
    · subst hk
      cases out k <;> simp
    · simp [hk]

/-- Bit `k` of an assembled sample is output bit `k`. -/
theorem getLsbD_assembleBits (out : Fin 12 → Bool) (k : Fin 12) :
    (assembleBits out).getLsbD k.val = out k := by
  have hk : k ∈ bitPositions := by revert k; decide
  have h := getLsbD_orBits out bitPositions 0 k
  simpa [assembleBits, hk] using h

/-- Bit `k` of a calculated sample is the decision of rule R134. -/
theorem getLsbD_pulldownCalc (n : Numerics) (e : ParamEntry) (p : Phase) (k : Fin 12) :
    (pulldownCalc n e p).getLsbD k.val = (p.getLsbD k.val && exceedsThreshold n e p k) :=
  getLsbD_assembleBits _ k

end Sys2Proof.Machine
end

