-- ==== Sys2Proof/Laws/Safety.lean ====
section
/-! SUPPORT. The small lemmas of the terms of Safety.lean: when the parts of a consistent state carry over,
and what the shared operations leave as it was. -/

namespace Sys2Proof.Machine

theorem State.BuiltSlotsHold.congr {s t : State} (h : s.BuiltSlotsHold) (hp : t.params = s.params)
    (hc : t.combLut = s.combLut) (hb : t.built = s.built) : t.BuiltSlotsHold := by
  intro m v built c p
  rw [State.readComb_congr hc, hp]
  exact h m v (hb ▸ built) c p

theorem State.BasicTablesHold.congr {s t : State} (h : s.BasicTablesHold)
    (hb : t.basicLut = s.basicLut) : t.BasicTablesHold := by
  intro p
  have := h p
  simpa [State.readBasic, hb] using this

/-- Everything of a consistent state but the ports carries over between states that agree on it. -/
theorem State.Consistent.congr {s t : State} (h : s.Consistent) (hp : t.params = s.params)
    (hb : t.basicLut = s.basicLut) (ht : s.SameTables t) (hf : s.SameFault t) (ports : t.PortsHold) :
    t.Consistent where
  tables := h.tables.congr hp ht.combLut ht.built
  basic := h.basic.congr hb
  count := by simpa [State.CountHolds, ht.built, ht.buildCount] using h.count
  faults := by simpa [State.FaultHolds, hf.fault, hf.faultCause, hf.faultWord] using h.faults
  ports := ports

/-- What a response leaves: everything but the one port of the command. -/
theorem State.sameTables_respond (s : State) (st : RspStatus) (d : Word) :
    s.SameTables (s.respond st d) := ⟨rfl, rfl, rfl⟩

theorem State.sameFault_respond (s : State) (st : RspStatus) (d : Word) :
    s.SameFault (s.respond st d) := ⟨rfl, rfl, rfl⟩

theorem State.sameSetting_respond (s : State) (st : RspStatus) (d : Word) :
    s.SameSetting (s.respond st d) := ⟨rfl, rfl, rfl, rfl, rfl, rfl⟩

/-- A response is the one response of the command. -/
theorem State.responds_respond (s : State) (st : RspStatus) (d : Word) :
    s.Responds (s.respond st d) ⟨st, d⟩ where
  count := by simp
  others _ h := s.respond_other_port st d h
  own _ h := s.respond_own_port st d h

end Sys2Proof.Machine
end

