-- ==== Sys2Proof/Tests/Slice0.lean ====
section
/-! SUPPORT. The model's own tests. Every expected value is one of spec/95_test_vectors.md, named by its id,
or follows from the rule cited; and for every statement with hypotheses a state that meets them. -/

namespace Sys2Proof.Tests

open Sys2Proof.Machine Sys2Proof.Claims

/-! ### WellFormed: one ill-formed command for each check -/

theorem test_vclass_three_is_ill_formed : (Instr.build .mos6581 3).wellFormed = false := by decide
theorem test_comb_five_is_ill_formed : (Instr.rdcomb .mos6581 0 5 0).wellFormed = false := by decide
theorem test_kind_four_is_ill_formed : (Instr.rdbasic 4 0).wellFormed = false := by decide
theorem test_field_six_is_ill_formed : (Instr.rdparam .mos6581 0 0 6).wellFormed = false := by decide
theorem test_weight_25_is_ill_formed : (Instr.rddist .mos6581 0 0 25).wellFormed = false := by decide
theorem test_edges_are_well_formed : (Instr.calculate .mos8580 2 4 0xFFF).wellFormed = true
    ∧ (Instr.rdparam .mos6581 0 0 5).wellFormed = true
    ∧ (Instr.rddist .mos6581 0 0 24).wellFormed = true := by decide

/-! ### Decode: words written out from the table of rule R82 -/

theorem test_decode_nop : decode 0b0000_1_11_111_11111_11111_111111111111 = .ok .nop := rfl
theorem test_decode_status : decode 0b0001_1_01_010_11110_01101_111011110000 = .ok .status := rfl
theorem test_decode_rdbasic :
    decode 0b0010_0_00_011_00000_00000_110000000000 = .ok (.rdbasic 3 0xC00) := rfl
theorem test_decode_build : decode 0b0011_1_10_000_00000_00000_000000000000 = .ok (.build .mos8580 2) := rfl
theorem test_decode_rdcomb :
    decode 0b0100_1_01_100_00000_00000_111111111111 = .ok (.rdcomb .mos8580 1 4 0xFFF) := rfl
theorem test_decode_calculate :
    decode 0b0101_0_01_001_00000_00000_111100000000 = .ok (.calculate .mos6581 1 1 0xF00) := rfl
theorem test_decode_rdparam :
    decode 0b0110_0_00_001_00010_00000_000000000000 = .ok (.rdparam .mos6581 0 1 2) := rfl
theorem test_decode_rddist :
    decode 0b0111_1_10_000_11000_00000_000000000000 = .ok (.rddist .mos8580 2 0 24) := rfl
theorem test_decode_rdfault : decode 0b1000_1_11_111_11111_11111_111111111111 = .ok .rdfault := rfl

/-- V-ILL2, V-RSV1, V-RSV2, V-RSV4, V-RSV5 and V-RSV6: the words that are no command. -/
theorem test_decode_rejects_by_name : decode 0xF1234567 = .error .illegalOp
    ∧ decode 0x28000000 = .error .reservedNonzero ∧ decode 0x20001000 = .error .reservedNonzero
    ∧ decode 0x30000001 = .error .reservedNonzero ∧ decode 0x40020000 = .error .reservedNonzero
    ∧ decode 0x36000001 = .error .reservedNonzero := ⟨rfl, rfl, rfl, rfl, rfl, rfl⟩

/-- Programs P1 to P4: words of assembler forms. -/
theorem test_encode_assembled :
    encode (assemble (.rdbasic .tri 0x800)) = 0x20400800
      ∧ encode (assemble (.build .mos8580 .average)) = 0x38000000
      ∧ encode (assemble (.calculate .mos6581 .weak .pt 0xF00)) = 0x52400F00
      ∧ encode (assemble (.rdparam .mos6581 .average .pt .topbit)) = 0x60440000
      ∧ encode (assemble (.rddist .mos6581 .average .ts 12)) = 0x70180000 := by decide

/-- A table row of 32 bits, and no command longer than one word (rule R89). -/
theorem test_decode_table_word : decodeTableWord 32 0x400000F0 = some (.rdcomb .mos6581 0 0 0x0F0)
    ∧ decodeTableWord 48 0x400000F0 = none := by decide

/-! ### binary32: vectors T-DF of section 2.2 -/

theorem test_exponential_weight : distanceReference .exponential 0x40400000 12 = 0x35FC8DE9 := by
  decide +kernel
theorem test_linear_weight : distanceReference .linear 0x3F000000 12 = 0x3E124925 := by decide +kernel
theorem test_quadratic_weight : distanceReference .quadratic 0x3E000000 12 = 0x3D579436 := by decide +kernel

/-- Rule R12: 1 + 2^−24 is halfway and goes to the even 1.0; 1 + 3·2^−24 goes to the even 1 + 2^−22. -/
theorem test_ties_go_to_even : fadd fone 0x33800000 = fone ∧ fadd fone 0x34400000 = 0x3F800002 := by
  decide +kernel

/-! ### The test ROM TROM (sections 2.1 and 2.9) -/

def synA : ParamEntry := ⟨.exponential, 0x3F000000, 0x3F800000, 0x00000000, 0x40000000, 0x40000000⟩
def synB : ParamEntry := ⟨.linear, 0x3F666666, 0x3F800000, 0x3FC00000, 0x3E800000, 0x3F000000⟩
def synC : ParamEntry := ⟨.quadratic, 0x3F400000, 0x3F000000, 0x00000000, 0x3F800000, 0x3E000000⟩
def synD : ParamEntry := ⟨.exponential, 0x3F733333, 0x40000000, 0x3F000000, 0x3FC00000, 0x40400000⟩

def trom : ParamRom :=
  #v[Vector.replicate 3 #v[synA, synB, synC, synD, synA], Vector.replicate 3 #v[synC, synD, synB, synA, synB]]

/-- TROM under the reference numerics. -/
def testParams : Params := ⟨trom, .reference, 1⟩

/-- The reset state of the vectors: TROM and one port. -/
def start : State := { State.reset with params := testParams, ports := [Port.idle] }

/-- The state with one word accepted on port 0 and that port next. -/
def State.serving (s : State) (w : Word) : State :=
  { s with ports := [{ Port.idle with accepted := [w] }], events := [.perform 0] }

/-- The response to a word performed on port 0. -/
def responseTo (s : State) (w : Word) : Option Response :=
  match step (State.serving s w) with
  | .next t => t.ports.head?.bind fun port => port.responses.head?
  | _ => none

/-- The state after the block faulted on the word of program P3, line 2. -/
def faulted : State := { start with cmd := ⟨0, 0x42400F00⟩ }.raiseFault .notBuilt

/-- Slot 0 built, and slots 0 and 3 built. -/
def oneBuilt : State := start.fillSlot .mos6581 .average
def bothBuilt : State := oneBuilt.fillSlot .mos8580 .average

/-! ### Commands -/

theorem test_nop_ignores_operand_bits : responseTo start 0x0FFFFFFF = some ⟨.ok, 0⟩ := by decide +kernel
/-- Program P3, line 7. -/
theorem test_nop_while_faulted : responseTo faulted 0x00000000 = some ⟨.ok, 0⟩ := by decide +kernel
/-- Program P2, line 9. -/
theorem test_status_of_two_built : responseTo bothBuilt 0x10000000 = some ⟨.ok, 0x209⟩ := by decide +kernel
/-- Program P3, line 4. -/
theorem test_status_of_fault : responseTo faulted 0x10000000 = some ⟨.ok, 0x00610000⟩ := by decide +kernel
/-- Program P1, lines 3 and 7. -/
theorem test_rdbasic_triangle_fold : responseTo start 0x20400800 = some ⟨.ok, 0xFFE⟩ := by decide +kernel
theorem test_rdbasic_pulse_and_shift : responseTo start 0x20C00C00 = some ⟨.ok, 0x800⟩ := by decide +kernel
/-- V-OK2, and program P2, line 4. -/
theorem test_build_miss : responseTo start 0x3C000000 = some ⟨.ok, 5⟩ := by decide +kernel
theorem test_build_hit : responseTo oneBuilt 0x30000000 = some ⟨.ok, 0x100⟩ := by decide +kernel
/-- Program P2, line 6, and V-NB1. -/
theorem test_rdcomb_built : responseTo bothBuilt 0x48000FFE = some ⟨.ok, 0xFF8⟩ := by decide +kernel
theorem test_rdcomb_unbuilt : responseTo start 0x40000000 = some ⟨.fault, 6⟩ := by decide +kernel
/-- Program P2, line 3, and program P3, line 1. -/
theorem test_calculate_exponential : responseTo start 0x500000F0 = some ⟨.ok, 0x060⟩ := by decide +kernel
theorem test_calculate_linear : responseTo start 0x52400F00 = some ⟨.ok, 0x800⟩ := by decide +kernel
/-- V-OK4 and V-IDX1. -/
theorem test_rdparam_pulsestrength : responseTo start 0x60460000 = some ⟨.ok, 0x3FC00000⟩ := by
  decide +kernel
theorem test_rdparam_index_six : responseTo start 0x600C0000 = some ⟨.fault, 5⟩ := by decide +kernel
/-- V-OK3 and program P4, line 6. -/
theorem test_rddist_last : responseTo start 0x70300000 = some ⟨.ok, 0x39800000⟩ := by decide +kernel
theorem test_rddist_first : responseTo start 0x7C000000 = some ⟨.ok, 0x3BE1FC78⟩ := by decide +kernel
/-- Program P3, line 5. -/
theorem test_rdfault_word : responseTo faulted 0x80000000 = some ⟨.ok, 0x42400F00⟩ := by decide +kernel
/-- V-VC3 (BAD_VCLASS before BAD_SEL and NOT_BUILT), V-SEL1, V-ILL1 and V-RSV6. -/
theorem test_fault_priority : responseTo start 0x47000000 = some ⟨.fault, 3⟩
    ∧ responseTo start 0x41400000 = some ⟨.fault, 4⟩ ∧ responseTo start 0x90000000 = some ⟨.fault, 1⟩
    ∧ responseTo start 0x36000001 = some ⟨.fault, 2⟩ := by decide +kernel
/-- V-FLT-LOCK. -/
theorem test_faulted_refuses : responseTo faulted 0x20000000 = some ⟨.faulted, 0⟩
    ∧ responseTo faulted 0x90000000 = some ⟨.faulted, 0⟩ := by decide +kernel

/-! ### TROM is admitted (rule R34, section 2.9) -/

theorem synA_admitted (c : Comb) : entryAdmitted .reference c synA = true := by
  have h : entryAdmitted .reference .ts synA = true := by decide +kernel
  simp only [entryAdmitted, Bool.and_eq_true] at h ⊢
  exact ⟨h.1, by cases c <;> rfl⟩

theorem synC_admitted (c : Comb) : entryAdmitted .reference c synC = true := by
  have h : entryAdmitted .reference .ts synC = true := by decide +kernel
  simp only [entryAdmitted, Bool.and_eq_true] at h ⊢
  exact ⟨h.1, by cases c <;> rfl⟩

theorem synB_admitted {c : Comb} (hc : c ≠ .ts) : entryAdmitted .reference c synB = true := by
  have h : entryAdmitted .reference .pt synB = true := by decide +kernel
  simp only [entryAdmitted, Bool.and_eq_true] at h ⊢
  exact ⟨h.1, by simp [tsPulseAdmitted, hc]⟩

theorem synD_admitted {c : Comb} (hc : c ≠ .ts) : entryAdmitted .reference c synD = true := by
  have h : entryAdmitted .reference .pt synD = true := by decide +kernel
  simp only [entryAdmitted, Bool.and_eq_true] at h ⊢
  exact ⟨h.1, by simp [tsPulseAdmitted, hc]⟩

/-- Section 2.4: at phase 0xFFE the two AVERAGE TS tables hold 0xFFE and 0xFF8 (S10). -/
theorem test_models_differ : pulldownCalc .reference synA 0xFFE = 0xFFE
    ∧ pulldownCalc .reference synC 0xFFE = 0xFF8 := by decide +kernel

theorem trom_models_differ : modelsDiffer .reference trom = true := by
  simp only [modelsDiffer, List.any_eq_true, bne_iff_ne]
  refine ⟨.ts, by decide, 0xFFE, List.mem_range.2 (by decide), ?_⟩
  show pulldownCalc .reference synA 0xFFE ≠ pulldownCalc .reference synC 0xFFE
  rw [test_models_differ.1, test_models_differ.2]
  decide

/-- The table of section 2.9. -/
theorem trom_entry (m : ChipModel) (v : VClass) (c : Comb) : romEntry trom m v c = match m, c with
    | .mos6581, .ts => synA
    | .mos6581, .pt => synB
    | .mos6581, .ps => synC
    | .mos6581, .pts => synD
    | .mos6581, .np => synA
    | .mos8580, .ts => synC
    | .mos8580, .pt => synD
    | .mos8580, .ps => synB
    | .mos8580, .pts => synA
    | .mos8580, .np => synB := by
  cases m <;> cases v <;> cases c <;> rfl

theorem trom_entry_admitted (m : ChipModel) (v : VClass) (c : Comb) :
    entryAdmitted .reference c (romEntry trom m v c) = true := by
  rw [trom_entry]
  cases m <;> cases c
  · exact synA_admitted _
  · exact synB_admitted (by decide)
  · exact synC_admitted _
  · exact synD_admitted (by decide)
  · exact synA_admitted _
  · exact synC_admitted _
  · exact synD_admitted (by decide)
  · exact synB_admitted (by decide)
  · exact synA_admitted _
  · exact synB_admitted (by decide)

theorem testParams_admitted : paramsAdmitted testParams = true := by
  have entries := trom_entry_admitted
  have differ := trom_models_differ
  simp only [paramsAdmitted, romAdmitted, Bool.and_eq_true, List.all_eq_true]
  exact ⟨⟨fun m _ v _ c _ => entries m v c, differ⟩, decide_eq_true (le_refl 1)⟩

/-! ### Witnesses: states that meet the hypotheses of the statements -/

theorem start_basic : start.BasicTablesHold := fun p =>
  ⟨sampleAt_basicContents .high p, sampleAt_basicContents .tri p, sampleAt_basicContents .saw p,
    sampleAt_basicContents .pas p⟩

theorem start_tables : start.BuiltSlotsHold := fun m v h => by
  cases m <;> cases v <;> exact absurd h (by decide)

theorem start_consistent : start.Consistent where
  tables := start_tables
  basic := start_basic
  count := rfl
  faults := ⟨⟨fun _ => rfl, fun _ => rfl⟩, fun _ => rfl⟩
  ports := by
    intro port h
    rw [show port = Port.idle from List.mem_singleton.1 h]
    decide

/-- A fill keeps the built slots right: what the witnesses with a built slot rest on. -/
theorem tables_fillSlot {s : State} (h : s.BuiltSlotsHold) (m : ChipModel) (v : VClass) :
    (s.fillSlot m v).BuiltSlotsHold := by
  intro m' v' hb c p
  by_cases hs : slotIndex m' v' = slotIndex m v
  · obtain ⟨rfl, rfl⟩ := slotIndex_injective hs
    exact s.readComb_fillSlot_same m' v' c p
  · rw [s.readComb_fillSlot_other m v hs]
    exact h m' v' (by simpa [hs] using hb) c p

theorem oneBuilt_tables : oneBuilt.BuiltSlotsHold := tables_fillSlot start_tables _ _
theorem bothBuilt_tables : bothBuilt.BuiltSlotsHold := tables_fillSlot oneBuilt_tables _ _

/-- The state with a word taken up for performing. -/
def onWord (s : State) (w : Word) : State := { s with cmd := ⟨0, w⟩ }

theorem witness_EncodeOfDecode : decode 0x42400F00 = .ok (.rdcomb .mos6581 1 1 0xF00)
    ∧ inspects (.rdcomb .mos6581 1 1 0xF00) = false := ⟨rfl, rfl⟩

/-- Words of each OP with every other bit set, and the last clause on a faulted block. -/
theorem witness_InspectionIgnoresOperandBits : ((0x0FFFFFFF : Word) >>> 28).toNat = 0
    ∧ ((0x1FFFFFFF : Word) >>> 28).toNat = 1 ∧ ((0x8FFFFFFF : Word) >>> 28).toNat = 8
    ∧ decode 0x8FFFFFFF = .ok .rdfault ∧ inspects .rdfault = true
    ∧ exec .rdfault faulted = .next (faulted.respond .ok 0x42400F00) :=
  ⟨by decide, by decide, by decide, rfl, rfl, rfl⟩

/-- First clause: each failing check at its boundary. -/
theorem witness_ChecksDecideInOrder_failing : start.fault = false
    ∧ firstFailure 0x90000000 start.built = some .illegalOp
    ∧ firstFailure 0x36000001 start.built = some .reservedNonzero
    ∧ firstFailure 0x47000000 start.built = some .badVclass
    ∧ firstFailure 0x21000000 start.built = some .badSel
    ∧ firstFailure 0x41400000 start.built = some .badSel
    ∧ firstFailure 0x600C0000 start.built = some .badIdx
    ∧ firstFailure 0x70320000 start.built = some .badIdx
    ∧ firstFailure 0x40000000 start.built = some .notBuilt
    ∧ (onWord start 0x90000000).cmd.word = 0x90000000 := by decide

/-- The other clauses: no failing check, each range at its last value, and a faulted block with a word of
either kind. -/
theorem witness_ChecksDecideInOrder_passing : oneBuilt.fault = false
    ∧ firstFailure 0x41000FFF oneBuilt.built = none ∧ firstFailure 0x20C00FFF oneBuilt.built = none
    ∧ firstFailure 0x600A0000 oneBuilt.built = none ∧ firstFailure 0x70300000 oneBuilt.built = none
    ∧ firstFailure 0x3C000000 oneBuilt.built = none ∧ firstFailure 0x8FFFFFFF oneBuilt.built = none
    ∧ (onWord faulted 0x90000000).fault = true
    ∧ ((onWord faulted 0x90000000).cmd.word >>> 28).toNat ∉ [0, 1, 8]
    ∧ ((onWord faulted 0x10000000).cmd.word >>> 28).toNat ∈ [0, 1, 8] := by decide

theorem witness_StepPerformsDecodedCommand : (State.serving start 0x500000F0).events = [.perform 0]
    ∧ (State.serving start 0x500000F0).ports[0]? = some ⟨[], [0x500000F0], [], []⟩
    ∧ decode 0x500000F0 = .ok (.calculate .mos6581 0 0 0x0F0) := ⟨rfl, rfl, rfl⟩

/-- Also a word that decodes to nothing. -/
theorem witness_EachCommandAnswersOnce : (State.serving start 0xF1234567).events = [.perform 0]
    ∧ (State.serving start 0xF1234567).ports[0]? = some ⟨[], [0xF1234567], [], []⟩ := ⟨rfl, rfl⟩

/-- One response before it on the port, and a second port. -/
def waiting : State := { start with
  ports := [Port.idle, ⟨[], [0x00000000], [⟨.ok, 7⟩], []⟩]
  events := [.perform 1, .deliver 1, .deliver 1, .accept 0] }

theorem witness_AcceptedCommandIsAnswered : waiting.events
      = .perform 1 :: (List.replicate 2 (.deliver 1) ++ [.accept 0])
    ∧ waiting.ports[1]? = some ⟨[], [0x00000000], [⟨.ok, 7⟩], []⟩ := ⟨rfl, rfl⟩

/-- The ends of the offsets. -/
theorem witness_AssembledCommandsWellFormed : ((-12 : Int) ≤ -12 ∧ (-12 : Int) ≤ 12)
    ∧ ((-12 : Int) ≤ 12 ∧ (12 : Int) ≤ 12) := by decide

theorem witness_NopAnswersZero : ((onWord faulted 0x0FFFFFFF).cmd.word >>> 28).toNat = 0 := by decide

theorem witness_StatusShowsStatusState : ((onWord faulted 0x1ABCDEF0).cmd.word >>> 28).toNat = 1 := by
  decide

theorem witness_RdfaultShowsFaultWord : ((onWord start 0x8FFFFFFF).cmd.word >>> 28).toNat = 8
    ∧ start.FaultHolds ∧ start.fault = false
    ∧ exec (.build .mos6581 0) (start.raiseFault .notBuilt)
      = .next ((start.raiseFault .notBuilt).respond .faulted 0) :=
  ⟨by decide, start_consistent.faults, rfl, rfl⟩

theorem witness_BuildMissFillsSlot : start.fault = false
    ∧ (vclassIndex .strong).val = (2 : BitVec 2).toNat
    ∧ builtBit start.built (slotIndex .mos8580 .strong) = false := by decide

theorem witness_BuildHitChangesNothing : oneBuilt.fault = false
    ∧ (vclassIndex .average).val = (0 : BitVec 2).toNat
    ∧ builtBit oneBuilt.built (slotIndex .mos6581 .average) = true := by decide

theorem witness_RdcombReadsBuiltSlot : oneBuilt.fault = false
    ∧ (vclassIndex .average).val = (0 : BitVec 2).toNat ∧ (combIndex .np).val = (4 : BitVec 3).toNat
    ∧ builtBit oneBuilt.built (slotIndex .mos6581 .average) = true := by decide

theorem witness_RdcombOfUnbuiltSlotFaults : oneBuilt.fault = false
    ∧ (vclassIndex .strong).val = (2 : BitVec 2).toNat ∧ (combIndex .np).val = (4 : BitVec 3).toNat
    ∧ builtBit oneBuilt.built (slotIndex .mos6581 .strong) = false := by decide

theorem witness_CalcAnswersSample : start.fault = false
    ∧ (vclassIndex .weak).val = (1 : BitVec 2).toNat ∧ (combIndex .pt).val = (1 : BitVec 3).toNat := by
  decide

theorem witness_RdparamAnswersField : start.fault = false
    ∧ (vclassIndex .strong).val = (2 : BitVec 2).toNat ∧ (combIndex .np).val = (4 : BitVec 3).toNat := by
  decide

/-- With the bit distance at both ends. -/
theorem witness_RddistAnswersWeight : start.fault = false
    ∧ (vclassIndex .average).val = (0 : BitVec 2).toNat ∧ (combIndex .ts).val = (0 : BitVec 3).toNat
    ∧ (1 ≤ 1 ∧ 1 ≤ 12) ∧ (1 ≤ 12 ∧ 12 ≤ 12) := by decide

/-- StepMovesTransfers and OffersAndResponsesHeld: an offer within the limit; an offer at the limit; a
response to deliver. -/
def offering : State := { start with ports := [⟨[0], [], [], []⟩], events := [.accept 0] }
def fullPort : State := { start with ports := [⟨[0], [], [⟨.ok, 0⟩], []⟩], events := [.accept 0] }
def answered : State := { start with ports := [⟨[0], [], [⟨.ok, 0⟩], []⟩], events := [.deliver 0] }

theorem witness_StepMovesTransfers : offering.events = [.accept 0]
    ∧ offering.ports[0]? = some ⟨[0], [], [], []⟩ ∧ 0 < offering.params.maxOutstanding
    ∧ fullPort.ports[0]? = some ⟨[0], [], [⟨.ok, 0⟩], []⟩ ∧ ¬ 1 < fullPort.params.maxOutstanding
    ∧ answered.events = [.deliver 0] := by decide

theorem witness_OffersAndResponsesHeld :
    step answered = .next ((answered.advance []).modifyPort 0 Port.deliverResponse)
      ∧ answered.ports[0]? = some ⟨[0], [], [⟨.ok, 0⟩], []⟩
      ∧ answered.events.head? ≠ some .reset := ⟨rfl, rfl, by decide⟩

/-- Nothing owed; an offer within the limit; a command owed its response; an offer at the limit beside a
command whose client has a response waiting. -/
theorem witness_BlockMakesOwedMoves : start.events = []
    ∧ (∀ port ∈ start.ports, (port.offers = []
          ∨ start.params.maxOutstanding ≤ port.accepted.length + port.responses.length)
        ∧ (port.accepted = [] ∨ port.responses ≠ []))
    ∧ ((⟨[0], [], [], []⟩ : Port).offers ≠ [] ∧ 0 + 0 < start.params.maxOutstanding)
    ∧ ((⟨[], [0], [], []⟩ : Port).accepted ≠ [] ∧ (⟨[], [0], [], []⟩ : Port).responses = [])
    ∧ (start.params.maxOutstanding ≤ (⟨[0], [0], [⟨.ok, 0⟩], []⟩ : Port).accepted.length
      + (⟨[0], [0], [⟨.ok, 0⟩], []⟩ : Port).responses.length) := by decide

/-- Rule R266: with nothing scheduled, an accepted NOP whose client waits is the move the block makes. -/
theorem test_owed_response :
    ({ start with ports := [⟨[], [0], [], []⟩] } : State).ownMove = some (.perform 0) := by
  rw [State.ownMove, show State.owedMoves { start with ports := [⟨[], [0], [], []⟩] } = [.perform 0] by decide,
    List.length_singleton, Nat.mod_one]
  rfl

/-- FairRunsAnswerEveryCommand: port 0 is performed and delivered in turn, from an accepted NOP on. -/
def fairChoice (n : Nat) : Event := if n % 2 = 0 then .perform 0 else .deliver 0

def fairRun : Nat → State
  | 0 => { start with ports := [⟨[], [0], [], []⟩] }
  | 1 => { start with ports := [⟨[], [], [⟨.ok, 0⟩], []⟩] }
  | _ => { start with ports := [⟨[], [], [], [⟨.ok, 0⟩]⟩] }

theorem fairRun_isRun : IsRun fairRun fairChoice := by
  intro n
  match n with
  | 0 => rfl
  | 1 => rfl
  | n + 2 =>
    rcases Nat.mod_two_eq_zero_or_one n with h | h
    · rw [show fairChoice (n + 2) = .perform 0 from by simp [fairChoice, h]]; rfl
    · rw [show fairChoice (n + 2) = .deliver 0 from by simp [fairChoice, h]]; rfl

theorem witness_FairRunsAnswerEveryCommand : IsRun fairRun fairChoice ∧ WeaklyFair fairRun fairChoice 0
    ∧ ClientAccepts fairRun fairChoice 0 ∧ (∀ m, 0 ≤ m → fairChoice m ≠ .reset)
    ∧ (fairRun 0).ports[0]? = some ⟨[], [0], [], []⟩ := by
  refine ⟨fairRun_isRun, fun n => ⟨2 * n, by omega, .inl ?_⟩, fun n => ⟨2 * n + 1, by omega, .inl ?_⟩, ?_, rfl⟩
  · simp [fairChoice]
  · rw [fairChoice, if_neg (by omega)]
  · intro m _
    unfold fairChoice
    split <;> decide

theorem witness_RdbasicAnswersSample : start.fault = false ∧ start.BasicTablesHold := ⟨rfl, start_basic⟩

theorem witness_BasicSampleRanges : start.BasicTablesHold := start_basic

theorem witness_RdcombEqualsCalc : oneBuilt.BuiltSlotsHold
    ∧ (vclassIndex .average).val = (0 : BitVec 2).toNat
    ∧ builtBit oneBuilt.built (slotIndex .mos6581 .average) = true := ⟨oneBuilt_tables, rfl, by decide⟩

/-- With the port of the command in place. -/
theorem witness_LookupAnswersSample : oneBuilt.fault = false ∧ oneBuilt.BuiltSlotsHold
    ∧ oneBuilt.ports[oneBuilt.cmd.port]? = some Port.idle := ⟨rfl, oneBuilt_tables, rfl⟩

/-- ConcurrentBuildsBuildOnce: vector V-RACE. -/
def race : State :=
  { start with
    ports := [⟨[], [0x30000000], [], []⟩, ⟨[], [0x30000000], [], []⟩], events := [.perform 1, .perform 0] }

theorem witness_ConcurrentBuildsBuildOnce : race.fault = false
    ∧ (vclassIndex .average).val = (0 : BitVec 2).toNat
    ∧ builtBit race.built (slotIndex .mos6581 .average) = false ∧ (1 : Nat) ≠ 0
    ∧ race.events = .perform 1 :: .perform 0 :: [] ∧ race.ports[1]? = some ⟨[], [0x30000000], [], []⟩
    ∧ race.ports[0]? = some ⟨[], [0x30000000], [], []⟩
    ∧ decode 0x30000000 = .ok (.build .mos6581 0) :=
  ⟨rfl, rfl, by decide, by decide, rfl, rfl, rfl, rfl⟩

theorem witness_BlockAnswersWhatItOwes : Event.reset ∉ race.events
    ∧ race.ports[1]? = some ⟨[], [0x30000000], [], []⟩ := by decide

theorem witness_RepeatedBuildsBuildOnce : start.fault = false
    ∧ (vclassIndex .average).val = (0 : BitVec 2).toNat
    ∧ builtBit start.built (slotIndex .mos6581 .average) = false
    ∧ start.ports[start.cmd.port]? = some Port.idle := ⟨rfl, rfl, by decide, rfl⟩

theorem witness_BuiltSlotsAreImmutable : step oneBuilt = .next oneBuilt
    ∧ oneBuilt.events.head? ≠ some .reset ∧ builtBit oneBuilt.built 0 = true :=
  ⟨rfl, by decide, by decide⟩

/-- BuildCountNeverWraps: a build that is a miss and one that is a hit. -/
theorem witness_BuildCountNeverWraps : start.CountHolds
    ∧ exec (.build .mos6581 0) start = .next (oneBuilt.respond .ok 0) ∧ oneBuilt.built ≠ start.built
    ∧ exec (.build .mos6581 0) oneBuilt = .next (oneBuilt.respond .ok 0x100) :=
  ⟨rfl, rfl, by decide, rfl⟩

/-- UnbuiltContentsUnobservable: two states with a built slot, whose unbuilt slots come from different
resets. -/
theorem witness_UnbuiltContentsUnobservable : oneBuilt.AgreeOnBuilt
    { oneBuilt with combLut :=
      (unspecifiedTables 1).set 0 (builtTables .reference #v[synA, synB, synC, synD, synA]) } where
  rest := rfl
  tables := by
    intro k hk
    have : k = 0 := by revert k; decide
    subst this
    simp [oneBuilt, State.fillSlot, start, testParams, trom]
    rfl

theorem witness_SignalVector : (10 : Fin 12) ≠ 11 ∧ isPositive synD.topbit = true := by decide

/-- The least positive binary32. -/
theorem witness_TopBitReadingsAgree : isPositive { synA with topbit := 0x00000001 }.topbit = true := by
  decide

/-- With the bit distance at both ends. -/
theorem witness_DistanceFormulas : isPositive synD.distance2 = true ∧ (1 ≤ 1 ∧ 1 ≤ 12)
    ∧ (1 ≤ 12 ∧ 12 ≤ 12) := by decide

theorem witness_EqualDistancesSymmetricTable : synA.distance1 = synA.distance2
    ∧ (0 : Fin 25).val + (24 : Fin 25).val = 24 := by decide

theorem witness_RoundOnceIsNearestEven : (0 : Nat) < 1 := by decide

/-- The largest finite value and a nonzero divisor. -/
theorem witness_ArithmeticRoundsExactResult : isFinite 0x7F7FFFFF = true
    ∧ isFinite 0xBF800000 = true ∧ isZero 0xBF800000 = false := by decide

/-- The boundary patterns of each clause: a NaN, the largest finite value, the infinities, and 144. -/
theorem witness_ArithmeticRoundsExactResult_comparison : isNaN 0x7F800001 = true
    ∧ isFinite 0x7F7FFFFF = true ∧ isFinite 0x80000000 = true ∧ isInf 0x7F800000 = true
    ∧ isInf 0xFF800000 = true ∧ 144 ≤ 144 := by decide

/-- RangeFaults: each clause at the boundary of its range. -/
theorem witness_RangeFaults : start.fault = false ∧ (2 : BitVec 2) ≠ 3 ∧ 4 < (5 : BitVec 3).toNat
    ∧ 3 < (4 : BitVec 3).toNat ∧ (4 : BitVec 3).toNat ≤ 4 ∧ 5 < (6 : BitVec 5).toNat
    ∧ 24 < (25 : BitVec 5).toNat := by decide

theorem witness_WellFormedFaultsOnlyUnbuilt : (Instr.rdcomb .mos6581 1 1 0xF00).wellFormed = true
    ∧ start.fault = false
    ∧ exec (.rdcomb .mos6581 1 1 0xF00) start = .next (start.raiseFault .notBuilt)
    ∧ (start.raiseFault .notBuilt).fault = true := ⟨rfl, rfl, rfl, rfl⟩

/-- A command that faults, and one on a faulted block. -/
theorem witness_FaultEntryIsPrecise : runCommand (onWord start 0x42400F00) = .next faulted
    ∧ (onWord start 0x42400F00).fault = false ∧ faulted.fault = true
    ∧ runCommand faulted = .next (faulted.respond .faulted 0) := ⟨rfl, rfl, rfl, rfl⟩

theorem witness_FaultedBlockRefuses : faulted.fault = true ∧ inspects (.build .mos6581 0) = false
    ∧ (faulted.cmd.word >>> 28).toNat ∉ [0, 1, 8] := by decide

theorem witness_FirstFaultIsKept : step faulted = .next faulted ∧ faulted.fault = true
    ∧ faulted.events.head? ≠ some .reset := ⟨rfl, rfl, by decide⟩

/-- A command that faults, one that answers, and one on a faulted block. -/
theorem witness_ReadCommandsFrame : onlyReads (.rdcomb .mos6581 0 0 0) = true
    ∧ exec (.rdcomb .mos6581 0 0 0) start = .next (start.raiseFault .notBuilt)
    ∧ inspects .nop = true ∧ exec .nop faulted = .next (faulted.respond .ok 0) := ⟨rfl, rfl, rfl, rfl⟩

/-- A miss leaving slot 5 alone, a reserved class, and a faulted block. -/
theorem witness_BuildFrame : exec (.build .mos6581 0) start = .next (oneBuilt.respond .ok 0)
    ∧ (∀ k, (vclassIndex k).val = (0 : BitVec 2).toNat → (5 : Fin 6) ≠ slotIndex .mos6581 k)
    ∧ exec (.build .mos6581 3) start = .next (start.raiseFault .badVclass)
    ∧ exec (.build .mos6581 0) faulted = .next (faulted.respond .faulted 0) :=
  ⟨rfl, fun k => by cases k <;> decide, rfl, rfl⟩

theorem witness_ConstantsNeverChange : step (State.serving start 0x30000000)
    = .next ((State.serving oneBuilt 0).advance [] |>.takeUp 0 Port.idle 0x30000000 []
      |>.respond .ok 0) := rfl

theorem witness_ResetLeaves : ({ faulted with events := [.reset] } : State).events = .reset :: [] := rfl

/-- A consistent state and a step from it. -/
theorem witness_StepKeepsConsistent :
    start.Consistent ∧ step start = .next start := ⟨start_consistent, rfl⟩

/-- Admitted parameters, and parameters that are not. -/
theorem witness_PowerOnAdmitsOrRefuses : paramsAdmitted testParams = true ∧ 1 ≤ 1
    ∧ paramsAdmitted { testParams with maxOutstanding := 0 } = false :=
  ⟨testParams_admitted, le_refl 1, by simp [paramsAdmitted]⟩

theorem witness_AdmittedSumsNeverVanish : paramsAdmitted testParams = true := testParams_admitted

theorem witness_TsPulsestrengthReadsZero : paramsAdmitted start.params = true ∧ start.fault = false
    ∧ (2 : BitVec 2) ≠ 3 := ⟨testParams_admitted, rfl, by decide⟩

theorem witness_BuiltModelsDiffer : paramsAdmitted bothBuilt.params = true ∧ bothBuilt.BuiltSlotsHold
    ∧ builtBit bothBuilt.built (slotIndex .mos6581 .average) = true
    ∧ builtBit bothBuilt.built (slotIndex .mos8580 .average) = true :=
  ⟨testParams_admitted, bothBuilt_tables, by decide, by decide⟩

end Sys2Proof.Tests
end

section
/-! SUPPORT. A finite binary32 as a significand times a power of two, and the order of its patterns
(rule R62). -/

namespace Sys2Proof.Machine

/-- `n` is a significand at the exponent `k`: of 24 bits, full unless the exponent is the least one. The
value 2^24, which a rounding up can reach, is the least full significand of the next exponent. -/
def IsSignificand (k n : Nat) : Prop := n ≤ 2 ^ 24 ∧ (k = 0 ∨ 2 ^ 23 ≤ n)

theorem expField_eq_magnitude_div (a : Word) : expField a = magnitude a / 2 ^ 23 := by
  simp only [expField, magnitude, BitVec.extractLsb'_toNat, Nat.shiftRight_eq_div_pow]
  omega

theorem fracField_eq_magnitude_mod (a : Word) : fracField a = magnitude a % 2 ^ 23 := by
  simp only [fracField, magnitude, BitVec.extractLsb'_toNat, Nat.shiftRight_zero]
  omega

theorem scaledMagnitude_congr {a b : Word} (h : magnitude a = magnitude b) :
    scaledMagnitude a = scaledMagnitude b := by
  simp only [scaledMagnitude, expField_eq_magnitude_div, fracField_eq_magnitude_mod, h]

/-- Exponent and significand, added up in the magnitude, give the value. -/
theorem scaledMagnitude_of_significand {a : Word} {k n : Nat} (h : magnitude a = k * 2 ^ 23 + n)
    (hn : IsSignificand k n) : scaledMagnitude a = n * 2 ^ k := by
  obtain ⟨hle, hk⟩ := hn
  rw [scaledMagnitude, expField_eq_magnitude_div, fracField_eq_magnitude_mod, h]
  rcases lt_or_ge n (2 ^ 23) with hlt | hge
  · obtain rfl : k = 0 := by omega
    rw [if_pos (by omega), show (0 * 2 ^ 23 + n) % 2 ^ 23 = n by omega, pow_zero, mul_one]
  · rw [if_neg (by omega)]
    rcases hle.lt_or_eq with hlt | rfl
    · rw [show (k * 2 ^ 23 + n) / 2 ^ 23 - 1 = k by omega,
        show 2 ^ 23 + (k * 2 ^ 23 + n) % 2 ^ 23 = n by omega]
    · rw [show (k * 2 ^ 23 + 2 ^ 24) / 2 ^ 23 - 1 = k + 1 by omega,
        show 2 ^ 23 + (k * 2 ^ 23 + 2 ^ 24) % 2 ^ 23 = 2 ^ 23 by omega]
      ring

/-- Every pattern has an exponent and a significand. -/
theorem exists_significand (a : Word) :
    ∃ k n, magnitude a = k * 2 ^ 23 + n ∧ n < 2 ^ 24 ∧ IsSignificand k n := by
  refine ⟨magnitude a / 2 ^ 23 - 1, magnitude a - (magnitude a / 2 ^ 23 - 1) * 2 ^ 23, ?_, ?_, ?_, ?_⟩
    <;> omega

/-- A value with a smaller exponent is below every full significand. -/
theorem significand_lt_of_exponent_lt {k k' n : Nat} (hn : n < 2 ^ 24) (hk : k < k') :
    n * 2 ^ k < 2 ^ 23 * 2 ^ k' := by
  calc n * 2 ^ k < 2 ^ 24 * 2 ^ k := by gcongr
    _ = 2 ^ 23 * 2 ^ (k + 1) := by ring
    _ ≤ 2 ^ 23 * 2 ^ k' := by gcongr <;> omega

theorem scaledMagnitude_strictMono {a b : Word} (h : magnitude a < magnitude b) :
    scaledMagnitude a < scaledMagnitude b := by
  obtain ⟨k, n, ha, hn, hs⟩ := exists_significand a
  obtain ⟨k', n', hb, hn', hs'⟩ := exists_significand b
  rw [scaledMagnitude_of_significand ha hs, scaledMagnitude_of_significand hb hs']
  obtain ⟨-, hk⟩ := hs
  obtain ⟨-, hk'⟩ := hs'
  rcases lt_trichotomy k k' with hlt | rfl | hgt
  · exact (significand_lt_of_exponent_lt hn hlt).trans_le (Nat.mul_le_mul_right _ (by omega))
  · have : n < n' := by omega
    gcongr
  · omega

theorem scaledMagnitude_lt_iff {a b : Word} :
    scaledMagnitude a < scaledMagnitude b ↔ magnitude a < magnitude b := by
  refine ⟨fun h => ?_, scaledMagnitude_strictMono⟩
  rcases lt_trichotomy (magnitude a) (magnitude b) with hlt | heq | hgt
  · exact hlt
  · exact absurd (scaledMagnitude_congr heq) h.ne
  · exact absurd (scaledMagnitude_strictMono hgt) h.asymm

theorem scaledMagnitude_eq_zero {a : Word} : scaledMagnitude a = 0 ↔ magnitude a = 0 := by
  have h := scaledMagnitude_lt_iff (a := 0) (b := a)
  rw [show scaledMagnitude 0 = 0 by decide, show magnitude 0 = 0 by decide] at h
  omega

@[simp] theorem natAbs_scaled (a : Word) : (scaled a).natAbs = scaledMagnitude a := by
  unfold scaled
  split <;> simp

/-- The order of the patterns is the order of the values: the two zeros are equal in both. -/
theorem orderKey_lt_iff {a b : Word} : orderKey b < orderKey a ↔ scaled b < scaled a := by
  have hlt := scaledMagnitude_lt_iff (a := a) (b := b)
  have hgt := scaledMagnitude_lt_iff (a := b) (b := a)
  have ha := scaledMagnitude_eq_zero (a := a)
  have hb := scaledMagnitude_eq_zero (a := b)
  unfold orderKey scaled
  split <;> split <;> omega

/-- A value is a multiple of `2 ^ k`, or below every full significand at the exponent `k`. -/
theorem dvd_or_abs_scaled_lt (x : Word) (k : Nat) :
    (2 ^ k : Int) ∣ scaled x ∨ |scaled x| < 2 ^ 23 * 2 ^ k := by
  obtain ⟨k', n, hx, hn, hs⟩ := exists_significand x
  rw [← dvd_abs, Int.abs_eq_natAbs, natAbs_scaled, scaledMagnitude_of_significand hx hs]
  rcases le_or_gt k k' with hle | hlt
  · left
    exact_mod_cast (Nat.pow_dvd_pow 2 hle).mul_left n
  · right
    exact_mod_cast significand_lt_of_exponent_lt hn hlt

/-! ### The change of sign -/

@[simp] theorem magnitude_fneg (a : Word) : magnitude (fneg a) = magnitude a := by
  have h : (fneg a).extractLsb' 0 31 = a.extractLsb' 0 31 := by
    ext i hi
    simp [fneg, show (0x80000000 : Word) = .twoPow 32 31 by rfl, show ¬ 31 = i by omega]
  rw [magnitude, h, magnitude]

@[simp] theorem isNeg_fneg (a : Word) : isNeg (fneg a) = !isNeg a := by simp [isNeg, fneg]

@[simp] theorem isFinite_fneg (a : Word) : isFinite (fneg a) = isFinite a := by simp [isFinite]

@[simp] theorem scaled_fneg (a : Word) : scaled (fneg a) = -scaled a := by
  cases h : isNeg a <;> simp [scaled, h, scaledMagnitude_congr (magnitude_fneg a)]

/-! ### Finite values, infinities and NaNs -/

theorem isNaN_of_isFinite {a : Word} (h : isFinite a = true) : isNaN a = false := by
  simp only [isFinite, isNaN, decide_eq_true_eq, decide_eq_false_iff_not] at *
  omega

theorem isInf_of_isFinite {a : Word} (h : isFinite a = true) : isInf a = false := by
  simp only [isFinite, isInf, decide_eq_true_eq, decide_eq_false_iff_not] at *
  omega

theorem isNaN_of_isInf {a : Word} (h : isInf a = true) : isNaN a = false := by
  simp only [isInf, isNaN, decide_eq_true_eq, decide_eq_false_iff_not] at *
  omega

theorem orderKey_of_isInf {a : Word} (h : isInf a = true) :
    orderKey a = if isNeg a then -0x7F800000 else 0x7F800000 := by
  simp only [isInf, decide_eq_true_eq] at h
  simp [orderKey, h]

theorem orderKey_of_isFinite {a : Word} (h : isFinite a = true) :
    -0x7F800000 < orderKey a ∧ orderKey a < 0x7F800000 := by
  simp only [isFinite, decide_eq_true_eq] at h
  unfold orderKey
  split <;> omega

theorem fgt_iff {a b : Word} (ha : isNaN a = false) (hb : isNaN b = false) :
    fgt a b = true ↔ orderKey b < orderKey a := by simp [fgt, ha, hb]

end Sys2Proof.Machine
end

section
/-! SUPPORT. The rounding of rule R12: the integer nearest to a quotient, and the magnitude made of it. -/

namespace Sys2Proof.Machine

/-! ### The nearest integer -/

theorem nearestEven_mul_right (j : Nat) {den : Nat} (h : 0 < den) : nearestEven (j * den) den = j := by
  simp [nearestEven, h, h.ne]

/-- The rounded integer is the quotient cut down, or the one after it. -/
theorem nearestEven_between (num den : Nat) :
    num / den ≤ nearestEven num den ∧ nearestEven num den ≤ num / den + 1 := by
  unfold nearestEven
  dsimp only
  split
  · omega
  · split <;> omega

/-- The rounded integer is within half a unit of the quotient, and even where it is half a unit off. -/
theorem nearestEven_bounds (num : Nat) {den : Nat} (h : 0 < den) :
    2 * num ≤ 2 * (nearestEven num den * den) + den
      ∧ 2 * (nearestEven num den * den) ≤ 2 * num + den
      ∧ (2 * num = 2 * (nearestEven num den * den) + den
          ∨ 2 * (nearestEven num den * den) = 2 * num + den → nearestEven num den % 2 = 0) := by
  have hdiv := Nat.div_add_mod' num den
  have hmod := Nat.mod_lt num h
  unfold nearestEven
  dsimp only
  split
  · rw [add_mul, one_mul]; omega
  · split
    · rcases Nat.mod_two_eq_zero_or_one (num / den) with hq | hq <;> rw [hq]
      · rw [Nat.add_zero]; omega
      · rw [add_mul, one_mul]; omega
    · omega

/-- No multiple of the divisor is nearer than the rounded one, and another is as near only where the
rounded one is even. -/
theorem nearestEven_nearest (num : Nat) {den : Nat} (h : 0 < den) (j : Int) :
    |(nearestEven num den * den : Int) - num| ≤ |j * den - num|
      ∧ (|(nearestEven num den * den : Int) - num| = |j * den - num| →
          j ≠ nearestEven num den → nearestEven num den % 2 = 0) := by
  obtain ⟨hlo, hhi, htie⟩ := nearestEven_bounds num h
  generalize nearestEven num den = n at *
  zify at hlo hhi htie h
  by_cases heq : j = n
  · simp [heq]
  · have hstep : j * den + den ≤ n * den ∨ (n : Int) * den + den ≤ j * den := by
      rcases lt_or_gt_of_ne heq with hlt | hgt
      · left; nlinarith
      · right; nlinarith
    generalize (n : Int) * den = x at *
    generalize j * den = y at *
    grind

/-! ### The rounded magnitude -/

/-- The exponent of the last place a result keeps: the quotient cut to 24 bits, or to the unit. -/
def lastPlace (num den : Nat) : Nat := (num / den).log2 - 23

/-- The quotient rounded to its last place. -/
def roundedSignificand (num den : Nat) : Nat := nearestEven num (den * 2 ^ lastPlace num den)

theorem roundedMagnitude_eq_min (num den : Nat) : roundedMagnitude num den
    = min (lastPlace num den * 2 ^ 23 + roundedSignificand num den) 0x7F800000 := by
  unfold roundedMagnitude roundedSignificand lastPlace
  dsimp only
  split <;> omega

/-- The quotient has its leading bit 23 places above the last one, or lower where the last is the unit. -/
theorem quotient_bounds (num den : Nat) : num / den < 2 ^ 24 * 2 ^ lastPlace num den
    ∧ (lastPlace num den = 0 ∨ 2 ^ 23 * 2 ^ lastPlace num den ≤ num / den) := by
  unfold lastPlace
  rw [← pow_add, ← pow_add]
  constructor
  · exact Nat.lt_log2_self.trans_le (Nat.pow_le_pow_right (by omega) (by omega))
  · refine or_iff_not_imp_left.2 fun h => ?_
    rw [show 23 + ((num / den).log2 - 23) = (num / den).log2 by omega]
    exact Nat.log2_self_le fun h0 => h (by simp [h0])

theorem isSignificand_roundedSignificand (num den : Nat) :
    IsSignificand (lastPlace num den) (roundedSignificand num den) := by
  obtain ⟨hlt, hge⟩ := quotient_bounds num den
  obtain ⟨hlo, hhi⟩ := nearestEven_between num (den * 2 ^ lastPlace num den)
  rw [← Nat.div_div_eq_div_mul] at hlo hhi
  have hq := Nat.div_lt_of_lt_mul ((mul_comm _ _).subst hlt)
  refine ⟨hhi.trans hq, hge.imp_right fun hge => ?_⟩
  exact ((Nat.le_div_iff_mul_le (by positivity)).2 hge).trans hlo

/-- The result is finite exactly below halfway past the largest finite value. -/
theorem roundedMagnitude_finite_iff (num : Nat) {den : Nat} (h : 0 < den) :
    roundedMagnitude num den < 0x7F800000 ↔ num < (2 ^ 25 - 1) * 2 ^ 252 * den := by
  obtain ⟨hlt, hge⟩ := quotient_bounds num den
  obtain ⟨hle, hfull⟩ := isSignificand_roundedSignificand num den
  obtain ⟨hlo, hhi, htie⟩ := nearestEven_bounds num (den := den * 2 ^ lastPlace num den) (by positivity)
  rw [Nat.div_lt_iff_lt_mul h] at hlt
  rw [Nat.le_div_iff_mul_le h] at hge
  rw [roundedMagnitude_eq_min, min_lt_iff]
  unfold roundedSignificand at *
  generalize lastPlace num den = k at *
  generalize nearestEven num (den * 2 ^ k) = n at *
  rcases lt_trichotomy k 253 with hk | rfl | hk
  · refine iff_of_true (by omega) (hlt.trans_le ?_)
    calc 2 ^ 24 * 2 ^ k * den ≤ 2 ^ 24 * 2 ^ 252 * den := by gcongr <;> omega
      _ ≤ (2 ^ 25 - 1) * 2 ^ 252 * den := by gcongr; omega
  · -- the last exponent: the threshold is the tie between 2^24 - 1, which is odd, and 2^24
    rw [show den * 2 ^ 253 = 2 * (2 ^ 252 * den) by ring] at hlo hhi htie
    rw [mul_assoc (2 ^ 25 - 1)]
    have hpos : 0 < 2 ^ 252 * den := by positivity
    generalize 2 ^ 252 * den = half at *
    rcases hle.eq_or_lt with rfl | hlt'
    · omega
    · refine iff_of_true (by omega) (lt_of_not_ge fun hpast => ?_)
      have hn : n * (2 * half) ≤ (2 ^ 24 - 1) * (2 * half) := by gcongr; omega
      have heven : n % 2 = 0 := htie (by omega)
      have hn' : n * (2 * half) ≤ (2 ^ 24 - 2) * (2 * half) := by gcongr; omega
      omega
  · have hk' : k ≠ 0 := by omega
    refine iff_of_false (by omega) (not_lt.2 (le_trans ?_ (hge.resolve_left hk')))
    calc (2 ^ 25 - 1) * 2 ^ 252 * den ≤ 2 ^ 25 * 2 ^ 252 * den := by gcongr; omega
      _ = 2 ^ 23 * 2 ^ 254 * den := by ring
      _ ≤ 2 ^ 23 * 2 ^ k * den := by gcongr <;> omega

/-- No finite value is nearer than the significand rounded at the last place. -/
theorem roundedSignificand_nearest (num : Nat) {den : Nat} (h : 0 < den) (x : Word) :
    |(roundedSignificand num den * 2 ^ lastPlace num den * den : Int) - num| ≤ |scaled x * den - num|
      ∧ (|(roundedSignificand num den * 2 ^ lastPlace num den * den : Int) - num| = |scaled x * den - num| →
          scaled x ≠ roundedSignificand num den * 2 ^ lastPlace num den →
            roundedSignificand num den % 2 = 0) := by
  have hnear := nearestEven_nearest num (den := den * 2 ^ lastPlace num den) (by positivity)
  have hfull := (quotient_bounds num den).2
  rw [Nat.le_div_iff_mul_le h] at hfull
  unfold roundedSignificand
  generalize lastPlace num den = k at *
  generalize nearestEven num (den * 2 ^ k) = n at *
  have hcast (j : Int) : j * (den * 2 ^ k : Nat) = j * 2 ^ k * den := by push_cast; ring
  simp only [hcast] at hnear
  by_cases hx : (2 ^ k : Int) ∣ scaled x
  · obtain ⟨j, hj⟩ := hx
    rw [hj, mul_comm _ j]
    exact ⟨(hnear j).1, fun heq hne => (hnear j).2 heq (by rintro rfl; exact hne rfl)⟩
  · -- `x` lies below 2^23 at the last place, which lies below the exact value
    have hbelow : scaled x * den < 2 ^ 23 * 2 ^ k * den := by
      have := (abs_lt.1 ((dvd_or_abs_scaled_lt x k).resolve_left hx)).2
      gcongr
    have hexact := hfull.resolve_left (by rintro rfl; simp at hx)
    zify at hexact
    have hbest := (hnear (2 ^ 23)).1
    grind

/-! ### The result rounded once -/

theorem magnitude_roundOnce (neg : Bool) (num den : Nat) :
    magnitude (roundOnce neg num den) = roundedMagnitude num den := by
  have h := roundedMagnitude_le num den
  exact magnitude_withSign neg (by omega)

theorem isFinite_roundOnce (neg : Bool) (num : Nat) {den : Nat} (h : 0 < den) :
    isFinite (roundOnce neg num den) = true ↔ num < (2 ^ 25 - 1) * 2 ^ 252 * den := by
  rw [isFinite, decide_eq_true_eq, magnitude_roundOnce, roundedMagnitude_finite_iff num h]

theorem isInf_roundOnce (neg : Bool) (num : Nat) {den : Nat} (h : 0 < den) :
    isInf (roundOnce neg num den) = true ↔ (2 ^ 25 - 1) * 2 ^ 252 * den ≤ num := by
  have hle := roundedMagnitude_le num den
  have hfin := roundedMagnitude_finite_iff num h
  rw [isInf, decide_eq_true_eq, magnitude_roundOnce]
  omega

/-- A finite result has the rounded significand in its magnitude. -/
theorem magnitude_roundOnce_of_isFinite {neg : Bool} {num den : Nat}
    (h : isFinite (roundOnce neg num den) = true) : magnitude (roundOnce neg num den)
      = lastPlace num den * 2 ^ 23 + roundedSignificand num den := by
  rw [isFinite, decide_eq_true_eq, magnitude_roundOnce, roundedMagnitude_eq_min] at h
  rw [magnitude_roundOnce, roundedMagnitude_eq_min]
  omega

theorem scaled_roundOnce {neg : Bool} {num den : Nat} (h : isFinite (roundOnce neg num den) = true) :
    scaled (roundOnce neg num den) = if neg then -(roundedSignificand num den * 2 ^ lastPlace num den : Int)
      else (roundedSignificand num den * 2 ^ lastPlace num den : Int) := by
  rw [scaled, isNeg_roundOnce, scaledMagnitude_of_significand (magnitude_roundOnce_of_isFinite h)
    (isSignificand_roundedSignificand num den)]
  norm_cast

theorem fracField_roundOnce_mod_two {neg : Bool} {num den : Nat}
    (h : isFinite (roundOnce neg num den) = true) :
    fracField (roundOnce neg num den) % 2 = roundedSignificand num den % 2 := by
  rw [fracField_eq_magnitude_mod, magnitude_roundOnce_of_isFinite h]
  omega

/-- A finite result is nearest to the signed exact value, the even one of two: with a minus sign, by the
mirror image of each other value. -/
theorem roundOnce_nearest {neg : Bool} {num den : Nat} (h : 0 < den)
    (hfin : isFinite (roundOnce neg num den) = true) (value : Int)
    (hvalue : value = if neg then -(num : Int) else (num : Int)) (x : Word) :
    |scaled (roundOnce neg num den) * den - value| ≤ |scaled x * den - value|
      ∧ (|scaled (roundOnce neg num den) * den - value| = |scaled x * den - value| →
          scaled x ≠ scaled (roundOnce neg num den) → fracField (roundOnce neg num den) % 2 = 0) := by
  rw [fracField_roundOnce_mod_two hfin, scaled_roundOnce hfin, hvalue]
  cases neg with
  | false => exact roundedSignificand_nearest num h x
  | true =>
    have hmirror (z : Int) : |-z * den - -num| = |z * den - num| := by
      rw [neg_mul, neg_sub_neg, abs_sub_comm]
    rw [show scaled x = -scaled (fneg x) by simp]
    simpa only [if_true, hmirror, neg_inj, ne_eq] using roundedSignificand_nearest num h (fneg x)

/-- The exact value ± `num / den`, rounded once. -/
theorem roundsTo_roundOnce {neg : Bool} {num den : Nat} (h : 0 < den) {value : Int}
    (hvalue : value = if neg then -(num : Int) else (num : Int)) :
    RoundsTo (roundOnce neg num den) value den := by
  have habs : |value| = num := by
    rw [hvalue]
    split <;> simp
  rw [RoundsTo, habs]
  rcases lt_or_ge num ((2 ^ 25 - 1) * 2 ^ 252 * den) with hlt | hge
  · have hfin := (isFinite_roundOnce neg num h).2 hlt
    exact .inl ⟨hfin, by omega, fun x _ => roundOnce_nearest h hfin value hvalue x⟩
  · refine .inr ⟨(isInf_roundOnce neg num h).2 hge, ?_, by omega⟩
    have hpos : 0 < num := hge.trans_lt' (by positivity)
    rw [isNeg_roundOnce, hvalue]
    cases neg <;> simp [hpos]

/-- The last place of an integer of 24 bits at the exponent `k` is no higher than `k`. -/
theorem lastPlace_le {i k : Nat} (hi : i < 2 ^ 24) : lastPlace (i * 2 ^ k) 1 ≤ k := by
  have hfull := (quotient_bounds (i * 2 ^ k) 1).2
  rw [Nat.div_one] at hfull
  rcases hfull with h0 | hfull
  · omega
  · by_contra hk
    exact absurd (significand_lt_of_exponent_lt hi (not_le.1 hk)) (not_lt.2 hfull)

/-- An integer of 24 bits times a power of two is rounded to itself. -/
theorem roundOnce_exact {i k : Nat} (hi : i < 2 ^ 24) (hk : k ≤ 253) :
    isFinite (roundOnce false (i * 2 ^ k) 1) = true
      ∧ scaled (roundOnce false (i * 2 ^ k) 1) = i * 2 ^ k := by
  have hfin : isFinite (roundOnce false (i * 2 ^ k) 1) = true := by
    refine (isFinite_roundOnce false _ one_pos).2 ?_
    calc i * 2 ^ k ≤ (2 ^ 24 - 1) * 2 ^ 253 := by gcongr <;> omega
      _ < _ := by omega
  obtain ⟨d, hd⟩ := Nat.exists_eq_add_of_le' (lastPlace_le (k := k) hi)
  have hsplit : i * 2 ^ k = i * 2 ^ d * 2 ^ lastPlace (i * 2 ^ k) 1 := by
    rw [mul_assoc, ← pow_add, ← hd]
  have hexact : roundedSignificand (i * 2 ^ k) 1 = i * 2 ^ d := by
    rw [roundedSignificand, one_mul]
    exact (congrArg (nearestEven · _) hsplit).trans (nearestEven_mul_right _ (by positivity))
  refine ⟨hfin, ?_⟩
  rw [scaled_roundOnce hfin, if_neg Bool.false_ne_true, hexact]
  exact_mod_cast hsplit.symm

/-- Settles O44: finite below the threshold, where the value is the nearest multiple of the last place, and
the infinity from it on. -/
theorem roundOnceIsNearestEven : Obligations.RoundOnceIsNearestEven := fun _ _ _ h =>
  roundsTo_roundOnce h rfl

end Sys2Proof.Machine
end

section
/-! SUPPORT. The four operations on finite operands: the exact result rounded once (rule R12). -/

namespace Sys2Proof.Machine

variable {a b : Word} (ha : isFinite a = true) (hb : isFinite b = true)

include ha hb

/-- The exact sum zero has a sign of its own, and either zero is the exact result. -/
theorem roundsTo_fadd : RoundsTo (fadd a b) (scaled a + scaled b) 1 := by
  simp only [fadd, isNaN_of_isFinite ha, isNaN_of_isFinite hb, isInf_of_isFinite ha,
    isInf_of_isFinite hb, Bool.or_self, Bool.false_eq_true, if_false]
  split
  · next hsum =>
    rw [hsum, show withSign (isNeg a && isNeg b) 0 = roundOnce (isNeg a && isNeg b) 0 1 by rfl]
    exact roundsTo_roundOnce one_pos (by simp)
  · refine roundsTo_roundOnce one_pos ?_
    simp only [decide_eq_true_eq]
    split <;> omega

theorem roundsTo_fsub : RoundsTo (fsub a b) (scaled a - scaled b) 1 := by
  have h := roundsTo_fadd ha ((isFinite_fneg b).trans hb)
  rwa [scaled_fneg, ← sub_eq_add_neg] at h

theorem roundsTo_fmul : RoundsTo (fmul a b) (scaled a * scaled b) (2 ^ 149) := by
  simp only [fmul, isNaN_of_isFinite ha, isNaN_of_isFinite hb, isInf_of_isFinite ha,
    isInf_of_isFinite hb, Bool.or_self, Bool.false_eq_true, if_false]
  refine roundsTo_roundOnce (by positivity) ?_
  unfold scaled
  cases isNeg a <;> cases isNeg b <;> simp

theorem roundsTo_fdiv (h0 : isZero b = false) :
    RoundsTo (fdiv a b) (scaled a * 2 ^ 149 * (scaled b).sign) (scaled b).natAbs := by
  have hpos : 0 < scaledMagnitude b := by
    simpa [isZero, Nat.pos_iff_ne_zero, scaledMagnitude_eq_zero] using h0
  have hsign : (scaledMagnitude b : Int).sign = 1 := Int.sign_eq_one_of_pos (by omega)
  simp only [fdiv, isNaN_of_isFinite ha, isNaN_of_isFinite hb, isInf_of_isFinite ha,
    isInf_of_isFinite hb, h0, Bool.or_self, Bool.false_eq_true, if_false, natAbs_scaled]
  refine roundsTo_roundOnce hpos ?_
  unfold scaled
  cases isNeg a <;> cases isNeg b <;> simp [hsign]

end Sys2Proof.Machine
end

section
/-! Settles the statements about the binary32 primitives (rule R12) and the constants (rule R30). -/

namespace Sys2Proof.Machine

/-- Settles O45: each operation is one rounding of its exact result, and `fgt` is the order of the keys, where
an infinity lies beyond every finite value. -/
theorem arithmeticRoundsExactResult : Obligations.ArithmeticRoundsExactResult := by
  refine ⟨fun a b ha hb =>
      ⟨roundsTo_fadd ha hb, roundsTo_fsub ha hb, roundsTo_fmul ha hb, roundsTo_fdiv ha hb⟩,
    fun a b => ⟨?nan, fun ha hb => ?finite, fun ha hb => ?pastFinite, fun ha hb => ?infinitePast,
      fun ha hb => ?infinite⟩,
    fun i hi => roundOnce_exact (by omega) (by omega), by decide, by decide⟩
  case nan => rintro (h | h) <;> simp [fgt, h]
  case finite => rw [fgt_iff (isNaN_of_isFinite ha) (isNaN_of_isFinite hb), orderKey_lt_iff]
  case pastFinite =>
    obtain ⟨hlo, hhi⟩ := orderKey_of_isFinite ha
    rw [fgt_iff (isNaN_of_isFinite ha) (isNaN_of_isInf hb), orderKey_of_isInf hb]
    cases isNeg b
    · simpa using hhi.le
    · simpa using hlo
  case infinitePast =>
    obtain ⟨hlo, hhi⟩ := orderKey_of_isFinite hb
    rw [fgt_iff (isNaN_of_isInf ha) (isNaN_of_isFinite hb), orderKey_of_isInf ha]
    cases isNeg a
    · simpa using hhi
    · simpa using hlo.le
  case infinite =>
    rw [fgt_iff (isNaN_of_isInf ha) (isNaN_of_isInf hb), orderKey_of_isInf ha, orderKey_of_isInf hb]
    cases isNeg a <;> cases isNeg b <;> decide

/-- An event keeps the constants and the number of ports. -/
theorem EventEffect.keeps_constants {s t : State} {e : Event} (h : EventEffect s t e) :
    t.params = s.params ∧ t.basicLut = s.basicLut ∧ t.ports.length = s.ports.length := by
  cases h with
  | accepts p h => simp [h]
  | skips p none h => simp [h]
  | performs p port w ws hp ha h =>
    cases h with
    | responds st d h => simp [h]
    | faults c clear named h => simp [h]
    | fills m v clear miss h => simp [h]
  | delivers p h => simp [h]
  | resets h => simp [h]

/-- Settles O53: a step is at most one event, and no event touches the constants. -/
theorem constantsNeverChange : Obligations.ConstantsNeverChange := by
  intro s t h
  cases StepEffect.of_step h with
  | idle quiet none h => simp [h]
  | owes e quiet owed h => exact h.keeps_constants
  | takes e rest ev h => exact h.keeps_constants

end Sys2Proof.Machine
end

section
/-! SUPPORT. Two states that differ at most in the contents of unbuilt slots, through the operations, the
commands and the events (rules R37 and R169). -/

namespace Sys2Proof.Machine

namespace State.AgreeOnBuilt

variable {s t : State}

/-- The second state is the first one with another store, which agrees on the built slots. -/
theorem exists_store (h : s.AgreeOnBuilt t) : ∃ lut : CombLut, t = { s with combLut := lut }
    ∧ ∀ k : Fin 6, builtBit s.built k = true → lut[k] = s.combLut[k] := ⟨_, h.rest, h.tables⟩

/-- An operation that neither reads nor writes the store, and leaves `BUILT`, keeps the agreement. -/
theorem map {f : State → State} (h : s.AgreeOnBuilt t)
    (blind : ∀ (u : State) (lut : CombLut), f { u with combLut := lut } = { f u with combLut := lut })
    (combLut : (f s).combLut = s.combLut) (built : (f s).built = s.built) :
    (f s).AgreeOnBuilt (f t) := by
  obtain ⟨lut, rfl, agree⟩ := h.exists_store
  rw [blind s lut]
  exact ⟨rfl, fun k hk => by rw [combLut]; exact agree k (built ▸ hk)⟩

/-! ### The operations -/

theorem modifyPort (h : s.AgreeOnBuilt t) (p : Nat) (f : Port → Port) :
    (s.modifyPort p f).AgreeOnBuilt (t.modifyPort p f) :=
  h.map (f := fun u => u.modifyPort p f) (fun _ _ => rfl) rfl rfl

theorem respond (h : s.AgreeOnBuilt t) (st : RspStatus) (d : Word) :
    (s.respond st d).AgreeOnBuilt (t.respond st d) :=
  h.map (f := fun u => u.respond st d) (fun _ _ => rfl) rfl rfl

theorem raiseFault (h : s.AgreeOnBuilt t) (c : FaultCause) :
    (s.raiseFault c).AgreeOnBuilt (t.raiseFault c) :=
  h.map (f := fun u => u.raiseFault c) (fun _ _ => rfl) rfl rfl

theorem advance (h : s.AgreeOnBuilt t) (rest : List Event) :
    (s.advance rest).AgreeOnBuilt (t.advance rest) :=
  h.map (f := fun u => u.advance rest) (fun _ _ => rfl) rfl rfl

theorem drawArbiter (h : s.AgreeOnBuilt t) : s.drawArbiter.AgreeOnBuilt t.drawArbiter :=
  h.map (f := State.drawArbiter) (fun _ _ => rfl) rfl rfl

theorem takeUp (h : s.AgreeOnBuilt t) (p : Nat) (port : Port) (w : Word) (ws : List Word) :
    (s.takeUp p port w ws).AgreeOnBuilt (t.takeUp p port w ws) :=
  h.map (f := fun u => u.takeUp p port w ws) (fun _ _ => rfl) rfl rfl

/-- Reset draws the same unspecified contents in both states. -/
theorem resetBlock (h : s.AgreeOnBuilt t) : s.resetBlock.AgreeOnBuilt t.resetBlock := by
  obtain ⟨lut, rfl, -⟩ := h.exists_store
  exact ⟨rfl, fun _ _ => rfl⟩

/-- The slot that is filled holds the same tables in both states, and every other built slot was built
before. -/
theorem fillSlot (h : s.AgreeOnBuilt t) (m : ChipModel) (v : VClass) :
    (s.fillSlot m v).AgreeOnBuilt (t.fillSlot m v) := by
  obtain ⟨lut, rfl, agree⟩ := h.exists_store
  refine ⟨rfl, fun k hk => ?_⟩
  by_cases hslot : k = slotIndex m v
  · subst hslot
    simp [State.fillSlot]
  · rw [State.combLut_fillSlot_other _ m v hslot, State.combLut_fillSlot_other _ m v hslot]
    exact agree k (by simpa [hslot] using hk)

theorem unlessFaulted {s' t' : State} (h : s.AgreeOnBuilt t) (h' : s'.AgreeOnBuilt t') :
    (s.unlessFaulted s').AgreeOnBuilt (t.unlessFaulted t') := by
  have fault : t.fault = s.fault := by rw [h.rest]
  cases hf : s.fault
  · rwa [State.unlessFaulted_of_false hf, State.unlessFaulted_of_false (fault.trans hf)]
  · rw [State.unlessFaulted_of_true hf, State.unlessFaulted_of_true (fault.trans hf)]
    exact h.respond .faulted 0

theorem answer (h : s.AgreeOnBuilt t) (r : Except FaultCause Word) :
    (s.answer r).AgreeOnBuilt (t.answer r) := by
  cases r with
  | ok d => exact h.respond .ok d
  | error c => exact h.raiseFault c

/-- The oldest accepted command is the same in both states. -/
theorem takeCommand (h : s.AgreeOnBuilt t) (p : Nat) :
    Option.Rel State.AgreeOnBuilt (s.takeCommand p) (t.takeCommand p) := by
  have ports : t.ports = s.ports := by rw [h.rest]
  unfold State.takeCommand
  rw [ports]
  split
  · exact .none
  · split
    · exact .none
    · exact .some (h.takeUp _ _ _ _)

/-! ### The cache -/

/-- RDCOMB looks into a slot only where the slot is built. -/
theorem combOperands_eq (h : s.AgreeOnBuilt t) (m : ChipModel) (v : BitVec 2) (sel : BitVec 3)
    (p : Phase) : t.combOperands m v sel p = s.combOperands m v sel p := by
  have built : t.built = s.built := by rw [h.rest]
  unfold State.combOperands
  rw [built]
  split
  · rfl
  · split
    · rfl
    · split
      · next hb => rw [State.readComb, State.readComb, h.tables _ hb]
      · rfl

/-- BUILD decides by `BUILT` between a hit and a miss. -/
theorem buildOrHit (h : s.AgreeOnBuilt t) (m : ChipModel) (v : VClass) :
    (s.buildOrHit m v).AgreeOnBuilt (t.buildOrHit m v) := by
  have built : t.built = s.built := by rw [h.rest]
  unfold State.buildOrHit
  rw [built]
  split
  · exact h.respond _ _
  · exact (h.fillSlot m v).respond _ _

end State.AgreeOnBuilt

/-! ### Commands, events and steps -/

/-- Both outcomes are next states, and these differ at most in the contents of unbuilt slots. -/
def NextAgree (o o' : Host.Outcome State Fault Refusal) : Prop :=
  ∃ s t, o = .next s ∧ o' = .next t ∧ s.AgreeOnBuilt t

theorem State.AgreeOnBuilt.next {s t : State} (h : s.AgreeOnBuilt t) : NextAgree (.next s) (.next t) :=
  ⟨s, t, rfl, rfl, h⟩

/-- A command that answers or faults by what it reads, where both states read the same. -/
theorem NextAgree.read {s t : State} (h : s.AgreeOnBuilt t) {r r' : Except FaultCause Word} (hr : r' = r) :
    NextAgree (.next (s.unlessFaulted (s.answer r))) (.next (t.unlessFaulted (t.answer r'))) := by
  subst hr
  exact (h.unlessFaulted (h.answer r')).next

/-- Only BUILD and RDCOMB touch the store; what any other command reads is the same in both states. -/
theorem exec_agree {s t : State} (h : s.AgreeOnBuilt t) (i : Instr) : NextAgree (exec i s) (exec i t) := by
  obtain ⟨lut, rfl, -⟩ := h.exists_store
  cases i with
  | nop => exact (h.respond .ok 0).next
  | status => exact (h.respond .ok s.statusView).next
  | rdfault => exact (h.respond .ok s.faultWord).next
  | rdbasic sel p => exact .read h rfl
  | calculate m v sel p => exact .read h rfl
  | rdparam m v sel idx => exact .read h rfl
  | rddist m v sel idx => exact .read h rfl
  | rdcomb m v sel p => exact .read h (h.combOperands_eq m v sel p)
  | build m v =>
    refine (h.unlessFaulted ?_).next
    split
    · exact h.raiseFault _
    · exact h.buildOrHit m _

theorem runCommand_agree {s t : State} (h : s.AgreeOnBuilt t) : NextAgree (runCommand s) (runCommand t) := by
  have cmd : t.cmd = s.cmd := by rw [h.rest]
  unfold runCommand
  rw [cmd]
  split
  · exact exec_agree h _
  · exact (h.unlessFaulted (h.raiseFault _)).next

theorem stepEvent_agree {s t : State} (h : s.AgreeOnBuilt t) (e : Event) :
    NextAgree (stepEvent e s) (stepEvent e t) := by
  cases e with
  | accept p =>
    have params : t.params = s.params := by rw [h.rest]
    simp only [stepEvent, params]
    exact (h.modifyPort p _).next
  | deliver p => exact (h.modifyPort p _).next
  | reset => exact h.resetBlock.next
  | perform p =>
    have taken := h.takeCommand p
    simp only [stepEvent]
    cases hs : s.takeCommand p <;> cases ht : t.takeCommand p <;> rw [hs, ht] at taken
    case none.none => exact h.next
    case some.some => cases taken with | some taken => exact runCommand_agree taken
    all_goals cases taken

/-- Settles O33: the schedule and the arbiter do not see the store, so both states take the same event, and
an event keeps the agreement. -/
theorem unbuiltContentsUnobservable : Obligations.UnbuiltContentsUnobservable := by
  intro s t h
  have events : t.events = s.events := by rw [h.rest]
  have ownMove : t.ownMove = s.ownMove := by rw [h.rest]; rfl
  unfold step
  rw [events, ownMove]
  split
  · split
    · exact h.next
    · exact stepEvent_agree h.drawArbiter _
  · exact stepEvent_agree (h.advance _) _

end Sys2Proof.Machine
end

section
/-! Settles the statement about BUILD_COUNT (rules R39 and R163). -/

namespace Sys2Proof.Machine

/-- Before a miss at most five slots are built, so the 3-bit counter does not wrap. -/
theorem toNat_buildCount_fillSlot {s : State} (h : s.CountHolds) (m : ChipModel) {v : VClass}
    (miss : builtBit s.built (slotIndex m v) = false) :
    (s.fillSlot m v).buildCount.toNat = s.buildCount.toNat + 1 := by
  have hle := builtTotal_le_five miss
  rw [← h] at hle
  rw [State.fillSlot_buildCount, BitVec.toNat_add_of_lt]
  · rfl
  · show s.buildCount.toNat + 1 < 8
    omega

theorem setBuilt_ne {b : BitVec 6} {k : Fin 6} (h : builtBit b k = false) : setBuilt b k ≠ b := by
  intro heq
  have hk := builtBit_setBuilt b k k
  rw [heq, h] at hk
  simp at hk

/-- Settles O32: of the effects of a command only a fill, which is a miss, changes `BUILT` or the count. -/
theorem buildCountNeverWraps : Obligations.BuildCountNeverWraps := by
  intro s h
  refine ⟨h ▸ builtTotal_le s.built, fun t m v ht => ?_⟩
  cases CommandEffect.of_exec ht with
  | responds st d ht => simp [ht]
  | faults c clear named ht => simp [ht]
  | fills m v clear miss ht =>
    subst ht
    exact ⟨fun _ => toNat_buildCount_fillSlot h m miss, fun heq => absurd heq (setBuilt_ne miss)⟩

end Sys2Proof.Machine
end

section
/-! SUPPORT. The conditions of rule R34, each as the check that decides it. -/

namespace Sys2Proof.Machine

/-! ### Signs and zeros as values -/

theorem isZero_iff {a : Word} : isZero a = true ↔ scaled a = 0 := by
  rw [isZero, decide_eq_true_eq, ← scaledMagnitude_eq_zero, ← natAbs_scaled, Int.natAbs_eq_zero]

theorem isZero_eq_false_iff {a : Word} : isZero a = false ↔ scaled a ≠ 0 := by
  rw [← Bool.not_eq_true, isZero_iff]

/-- −0 has the value 0 (log 15). -/
theorem nonnegative_iff {a : Word} : (!isNeg a || isZero a) = true ↔ 0 ≤ scaled a := by
  rw [Bool.or_eq_true, isZero_iff]
  cases hn : isNeg a <;> simp [scaled, hn]

theorem isPositive_iff {a : Word} : isPositive a = true ↔ isFinite a = true ∧ 0 < scaled a := by
  rw [isPositive, Bool.and_assoc, Bool.and_eq_true, Bool.and_eq_true, Bool.not_eq_true', Bool.not_eq_true',
    isZero_eq_false_iff]
  cases hn : isNeg a <;> simp [scaled, hn, Nat.pos_iff_ne_zero]

/-! ### The conditions on one entry -/

theorem distancesAdmitted_iff {e : ParamEntry} : distancesAdmitted e = true ↔
    isPositive e.distance1 = true ∧ isPositive e.distance2 = true := by
  rw [distancesAdmitted, Bool.and_eq_true]

theorem mem_bitPositions (sb : Fin 12) : sb ∈ bitPositions := by
  revert sb; decide

theorem weightsAdmitted_iff {n : Numerics} {e : ParamEntry} : weightsAdmitted n e = true ↔
    (∀ j : Fin 25, isPositive (distanceEntry n e j) = true)
      ∧ ∀ sb : Fin 12, isFinite (weightSum n e sb) = true ∧ isZero (weightSum n e sb) = false := by
  simp only [weightsAdmitted, Bool.and_eq_true, List.all_eq_true, List.mem_finRange, mem_bitPositions,
    true_imp_iff, Bool.not_eq_true']

theorem numbersAdmitted_iff {e : ParamEntry} : numbersAdmitted e = true ↔
    isFinite e.threshold = true ∧ isFinite e.topbit = true ∧ isFinite e.pulsestrength = true
      ∧ 0 < scaled e.topbit ∧ 0 ≤ scaled e.threshold := by
  rw [numbersAdmitted, Bool.and_eq_true, nonnegative_iff]
  simp only [Bool.and_eq_true, isPositive_iff]
  tauto

theorem tsPulseAdmitted_iff {c : Comb} {e : ParamEntry} : tsPulseAdmitted c e = true ↔
    (c = .ts → e.pulsestrength = 0x00000000) := by
  simp [tsPulseAdmitted, imp_iff_not_or]

theorem entryAdmitted_iff {n : Numerics} {c : Comb} {e : ParamEntry} : entryAdmitted n c e = true ↔
    distancesAdmitted e = true ∧ weightsAdmitted n e = true ∧ numbersAdmitted e = true
      ∧ tsPulseAdmitted c e = true := by
  simp only [entryAdmitted, Bool.and_eq_true, and_assoc]

/-! ### The conditions on all of the parameters -/

theorem modelsDiffer_iff {n : Numerics} {rom : ParamRom} : modelsDiffer n rom = true ↔
    ∃ (c : Comb) (p : Phase), pulldownCalc n (romEntry rom .mos6581 .average c) p
      ≠ pulldownCalc n (romEntry rom .mos8580 .average c) p := by
  simp only [modelsDiffer, List.any_eq_true, bne_iff_ne]
  constructor
  · rintro ⟨c, -, i, -, hne⟩
    exact ⟨c, _, hne⟩
  · rintro ⟨c, p, hne⟩
    exact ⟨c, by cases c <;> decide, p.toNat, List.mem_range.2 p.isLt,
      by rwa [BitVec.ofNat_toNat, BitVec.setWidth_eq]⟩

theorem paramsAdmitted_iff {P : Params} : paramsAdmitted P = true ↔ 1 ≤ P.maxOutstanding
    ∧ (∀ (m : ChipModel) (v : VClass) (c : Comb),
        entryAdmitted P.numerics c (romEntry P.paramRom m v c) = true)
    ∧ modelsDiffer P.numerics P.paramRom = true := by
  have hm (m : ChipModel) : m ∈ [ChipModel.mos6581, .mos8580] := by cases m <;> decide
  have hv (v : VClass) : v ∈ [VClass.average, .weak, .strong] := by cases v <;> decide
  have hc (c : Comb) : c ∈ [Comb.ts, .pt, .ps, .pts, .np] := by cases c <;> decide
  simp only [paramsAdmitted, romAdmitted, Bool.and_eq_true, List.all_eq_true, hm, hv, hc, true_imp_iff,
    decide_eq_true_eq]
  exact and_comm

theorem entryAdmitted_of_paramsAdmitted {P : Params} (h : paramsAdmitted P = true) (m : ChipModel)
    (v : VClass) (c : Comb) : entryAdmitted P.numerics c (romEntry P.paramRom m v c) = true :=
  (paramsAdmitted_iff.1 h).2.1 m v c

/-! ### The machine built -/

/-- After power-on no slot is built, no fault is recorded and nothing is in flight. -/
theorem consistent_powerOn (p : Params) (n : Nat) : ({ State.reset with
    params := p, ports := List.replicate n Port.idle } : State).Consistent where
  tables m v built := by simp [builtBit, State.reset] at built
  basic phase := ⟨sampleAt_basicContents .high phase, sampleAt_basicContents .tri phase,
    sampleAt_basicContents .saw phase, sampleAt_basicContents .pas phase⟩
  count := by
    show (0 : BitVec 3).toNat = builtTotal 0
    rfl
  faults := ⟨⟨fun _ => rfl, fun _ => rfl⟩, fun _ => rfl⟩
  ports port hport := by
    obtain rfl := List.eq_of_mem_replicate hport
    exact Nat.zero_le _

theorem powerOn_of_admitted {p : Params} {n : Nat} (h : paramsAdmitted p = true) (hn : 1 ≤ n) :
    powerOn p n = .next { State.reset with params := p, ports := List.replicate n Port.idle } := by
  simp [powerOn, h, hn]

theorem powerOn_of_not_admitted {p : Params} {n : Nat} (h : paramsAdmitted p = false ∨ n = 0) :
    powerOn p n = .refused .paramsNotAdmitted := by
  rcases h with h | rfl <;> simp [powerOn, *]

end Sys2Proof.Machine
end

section
/-! Settles the statements about admission (rules R10, R34, R109 and R140). -/

namespace Sys2Proof.Machine

/-- Settles O57: power-on answers the reset state of admitted parameters, and the checks are the conditions
(a) to (f), with positive and nonzero read as values. -/
theorem powerOnAdmitsOrRefuses : Obligations.PowerOnAdmitsOrRefuses := by
  refine ⟨fun p n => ⟨fun h hn => ?_, powerOn_of_not_admitted⟩, fun P => ?_⟩
  · exact ⟨_, powerOn_of_admitted h hn, rfl, List.length_replicate, consistent_powerOn p n⟩
  · simp only [paramsAdmitted_iff, entryAdmitted_iff, distancesAdmitted_iff, weightsAdmitted_iff,
      numbersAdmitted_iff, tsPulseAdmitted_iff, modelsDiffer_iff, isPositive_iff, isZero_eq_false_iff,
      and_assoc]

/-- Settles O59: condition (b) of rule R34. -/
theorem admittedSumsNeverVanish : Obligations.AdmittedSumsNeverVanish := by
  intro p m v c h
  obtain ⟨-, weights, -⟩ := entryAdmitted_iff.1 (entryAdmitted_of_paramsAdmitted h m v c)
  exact weightsAdmitted_iff.1 weights

/-- Settles O60: V names a class, SEL 0 names TS and IDX 3 the pulse strength, which condition (e) of rule
R34 makes 0. -/
theorem tsPulsestrengthReadsZero : Obligations.TsPulsestrengthReadsZero := by
  intro s m v h clear hv
  obtain ⟨k, hk, -⟩ := vclassOperand_of_ne_three hv
  obtain ⟨-, -, -, pulse⟩ := entryAdmitted_iff.1 (entryAdmitted_of_paramsAdmitted h m k .ts)
  have entry : s.entryOperand m v 0 = .ok (romEntry s.params.paramRom m k .ts) := by
    rw [State.entryOperand, hk]; rfl
  rw [exec, execRdparam, State.unlessFaulted_of_false clear, entry,
    ← tsPulseAdmitted_iff.1 pulse rfl]
  rfl

end Sys2Proof.Machine
end

section
/-! SUPPORT. What fault entry leaves as it was (rule R232), and the cases of a command other than BUILD. -/

namespace Sys2Proof.Machine

open Sys2Proof.Claims

/-! ### Fault entry -/

theorem State.sameTables_raiseFault (s : State) (c : FaultCause) : s.SameTables (s.raiseFault c) :=
  ⟨rfl, rfl, rfl⟩

theorem State.sameSetting_raiseFault (s : State) (c : FaultCause) : s.SameSetting (s.raiseFault c) :=
  ⟨rfl, rfl, rfl, rfl, rfl, rfl⟩

/-- Fault entry writes the fault registers beside its response, so its ports are those of the response alone. -/
theorem State.responds_raiseFault (s : State) (c : FaultCause) :
    s.Responds (s.raiseFault c) ⟨.fault, (causeCode c).setWidth 32⟩ :=
  have h := s.responds_respond .fault ((causeCode c).setWidth 32)
  ⟨h.count, h.others, h.own⟩

/-! ### Commands other than BUILD -/

/-- What a command other than BUILD can do: it responds; or, the block not being faulted and the command being
one that a faulted block refuses, it enters a fault. -/
inductive ReadEffect (i : Instr) (s t : State) : Prop where
  | responds (st : RspStatus) (d : Word) (h : t = s.respond st d)
  | faults (c : FaultCause) (clear : s.fault = false) (refusable : inspects i = false) (h : t = s.raiseFault c)

/-- A read under the lock-out answers, faults, or is answered FAULTED. -/
theorem ReadEffect.unlessFaulted_answer {i : Instr} (hi : inspects i = false) (s : State)
    (r : Except FaultCause Word) : ReadEffect i s (s.unlessFaulted (s.answer r)) := by
  cases hf : s.fault with
  | true => exact .responds .faulted 0 (State.unlessFaulted_of_true hf)
  | false =>
    rw [State.unlessFaulted_of_false hf]
    cases r with
    | ok d => exact .responds .ok d rfl
    | error c => exact .faults c hf hi rfl

/-- The cases of a command other than BUILD that is known to answer `t`. -/
theorem ReadEffect.of_exec {i : Instr} {s t : State} (hi : onlyReads i = true) (h : exec i s = .next t) :
    ReadEffect i s t := by
  cases i with
  | nop => cases h; exact .responds .ok 0 rfl
  | status => cases h; exact .responds .ok s.statusView rfl
  | rdfault => cases h; exact .responds .ok s.faultWord rfl
  | build m v => cases hi
  | rdbasic sel p => cases h; exact .unlessFaulted_answer rfl s _
  | rdcomb m v sel p => cases h; exact .unlessFaulted_answer rfl s _
  | calculate m v sel p => cases h; exact .unlessFaulted_answer rfl s _
  | rdparam m v sel idx => cases h; exact .unlessFaulted_answer rfl s _
  | rddist m v sel idx => cases h; exact .unlessFaulted_answer rfl s _

end Sys2Proof.Machine
end

section
/-! Settles the statement about the frame of every command but BUILD (rules R64, R165, R195 and R210 to
R212). -/

namespace Sys2Proof.Machine

/-- Settles O51: such a command only responds, and leaves the rest, or enters a fault, which a faulted block
and the commands that inspect it never do. -/
theorem readCommandsFrame : Obligations.ReadCommandsFrame := by
  intro i s t hi h
  cases ReadEffect.of_exec hi h with
  | responds st d ht =>
    subst ht
    have kept := s.sameFault_respond st d
    exact ⟨s.sameTables_respond st d, s.sameSetting_respond st d,
      ⟨_, s.responds_respond st d, fun _ => kept⟩, fun _ => kept⟩
  | faults c clear refusable ht =>
    subst ht
    exact ⟨s.sameTables_raiseFault c, s.sameSetting_raiseFault c,
      ⟨_, s.responds_raiseFault c, fun notFault => absurd rfl notFault⟩, by simp [clear, refusable]⟩

end Sys2Proof.Machine
end

section
/-! SUPPORT. The decoder, opcode by opcode, and the one word that has given fields (rules R82 to R86). -/

namespace Sys2Proof

variable {w mask : Word}

/-! ### The fields of a word -/

theorem modelBit_mField (w : Word) : modelBit (mField w) = w.extractLsb' 27 1 := by
  apply BitVec.eq_of_getLsbD_eq
  intro i hi
  obtain rfl : i = 0 := by omega
  rw [BitVec.getLsbD_extractLsb', mField]
  cases w.getLsbD 27 <;> rfl

theorem opField_eq_iff (w : Word) (op : BitVec 4) : opField w = op ↔ (w >>> 28).toNat = op.toNat := by
  rw [← BitVec.toNat_inj, opField, BitVec.extractLsb'_toNat, BitVec.toNat_ushiftRight,
    Nat.shiftRight_eq_div_pow]
  omega

/-- A word whose fields are these, with RSV = 0, is the word written from them. -/
theorem commandWord_eq_of_fields {op : BitVec 4} {m : BitVec 1} {v : BitVec 2} {sel : BitVec 3}
    {idx : BitVec 5} {phase : Phase} (hop : (opField w).toNat = op.toNat) (hm : w.extractLsb' 27 1 = m)
    (hv : vField w = v) (hsel : selField w = sel) (hidx : idxField w = idx) (hrsv : rsvField w = 0)
    (hphase : phaseField w = phase) : commandWord op m v sel idx phase = w := by
  obtain rfl := BitVec.eq_of_toNat_eq hop
  subst hm hv hsel hidx hphase
  rw [commandWord, ← hrsv, opField, vField, selField, idxField, rsvField, phaseField]
  have join (start n k : Nat) :
      w.extractLsb' (start + k) n ++ w.extractLsb' start k = w.extractLsb' start (n + k) :=
    BitVec.extractLsb'_append_extractLsb'_eq_extractLsb' rfl
  rw [join 27 4 1, join 25 5 2, join 22 7 3, join 17 10 5, join 12 15 5, join 0 20 12]
  exact BitVec.extractLsb'_eq_self

/-- A field that a must-be-zero mask covers is 0 in a word that passes the check. -/
theorem field_eq_zero {start len : Nat} (h : w &&& mask = 0)
    (covered : mask.extractLsb' start len = BitVec.allOnes len) : w.extractLsb' start len = 0 := by
  have cut := congrArg (BitVec.extractLsb' start len) h
  rw [BitVec.extractLsb'_and, covered, BitVec.and_allOnes] at cut
  exact cut.trans BitVec.extractLsb'_zero

/-! ### The decoder -/

theorem checkedMbz_eq_ok {i j : Instr} : checkedMbz w mask i = .ok j ↔ w &&& mask = 0 ∧ i = j := by
  unfold checkedMbz
  split <;> simp_all

theorem decode_nop (h : opField w = 0) : decode w = .ok .nop := by rw [decode, h]; rfl
theorem decode_status (h : opField w = 1) : decode w = .ok .status := by rw [decode, h]; rfl
theorem decode_rdbasic (h : opField w = 2) :
    decode w = checkedMbz w 0x0E3FF000 (.rdbasic (selField w) (phaseField w)) := by rw [decode, h]; rfl
theorem decode_build (h : opField w = 3) :
    decode w = checkedMbz w 0x01FFFFFF (.build (mField w) (vField w)) := by rw [decode, h]; rfl
theorem decode_rdcomb (h : opField w = 4) : decode w
    = checkedMbz w 0x003FF000 (.rdcomb (mField w) (vField w) (selField w) (phaseField w)) := by
  rw [decode, h]; rfl
theorem decode_calculate (h : opField w = 5) : decode w
    = checkedMbz w 0x003FF000 (.calculate (mField w) (vField w) (selField w) (phaseField w)) := by
  rw [decode, h]; rfl
theorem decode_rdparam (h : opField w = 6) : decode w
    = checkedMbz w 0x0001FFFF (.rdparam (mField w) (vField w) (selField w) (idxField w)) := by
  rw [decode, h]; rfl
theorem decode_rddist (h : opField w = 7) : decode w
    = checkedMbz w 0x0001FFFF (.rddist (mField w) (vField w) (selField w) (idxField w)) := by
  rw [decode, h]; rfl
theorem decode_rdfault (h : opField w = 8) : decode w = .ok .rdfault := by rw [decode, h]; rfl

/-- The word the encoder writes matches its row of the opcode map under the row's mask. -/
theorem encode_and_row (i : Instr) : encode i &&& (opcodeRow i).2 = (opcodeRow i).1 := by
  cases i with
  | nop => exact Laws.EncodeMatchesRow.nop
  | status => exact Laws.EncodeMatchesRow.status
  | rdbasic sel phase => exact Laws.EncodeMatchesRow.rdbasic sel phase
  | build m v => exact Laws.EncodeMatchesRow.build m v
  | rdcomb m v sel phase => exact Laws.EncodeMatchesRow.rdcomb m v sel phase
  | calculate m v sel phase => exact Laws.EncodeMatchesRow.calculate m v sel phase
  | rdparam m v sel idx => exact Laws.EncodeMatchesRow.rdparam m v sel idx
  | rddist m v sel idx => exact Laws.EncodeMatchesRow.rddist m v sel idx
  | rdfault => exact Laws.EncodeMatchesRow.rdfault

/-- The word the encoder writes is 0 under a mask that is its row's mask less the bits of OP, so it passes the
must-be-zero check of that mask. -/
theorem checkedMbz_encode {i j : Instr} (hmask : mask = (opcodeRow i).2 &&& 0x0FFFFFFF) (hj : j = i) :
    checkedMbz (encode i) mask j = .ok i := by
  have operandBits : (opcodeRow i).1 &&& 0x0FFFFFFF = 0 := by cases i <;> simp [opcodeRow]
  exact checkedMbz_eq_ok.2 ⟨by rw [hmask, ← BitVec.and_assoc, encode_and_row, operandBits], hj⟩

end Sys2Proof
end

section
/-! Settles the statements about the decoder and the encoder (rules R82 to R87 and R90). -/

namespace Sys2Proof

/-- Settles O2: OP tells the command, the word passes its must-be-zero check, and each field reads back what
was written. -/
theorem decodeOfEncode : Obligations.DecodeOfEncode := by
  intro i
  cases i with
  | nop => exact decode_nop (by simp [encode])
  | status => exact decode_status (by simp [encode])
  | rdfault => exact decode_rdfault (by simp [encode])
  | rdbasic sel phase =>
    exact (decode_rdbasic (by simp [encode])).trans
      (checkedMbz_encode (by rw [opcodeRow]; decide) (by simp [encode]))
  | build m v =>
    exact (decode_build (by simp [encode])).trans
      (checkedMbz_encode (by rw [opcodeRow]; decide) (by simp [encode]))
  | rdcomb m v sel phase =>
    exact (decode_rdcomb (by simp [encode])).trans
      (checkedMbz_encode (by rw [opcodeRow]; decide) (by simp [encode]))
  | calculate m v sel phase =>
    exact (decode_calculate (by simp [encode])).trans
      (checkedMbz_encode (by rw [opcodeRow]; decide) (by simp [encode]))
  | rdparam m v sel idx =>
    exact (decode_rdparam (by simp [encode])).trans
      (checkedMbz_encode (by rw [opcodeRow]; decide) (by simp [encode]))
  | rddist m v sel idx =>
    exact (decode_rddist (by simp [encode])).trans
      (checkedMbz_encode (by rw [opcodeRow]; decide) (by simp [encode]))

/-- Settles O3: a word with operands is made of the fields its command names and of fields that its
must-be-zero mask covers. -/
theorem encodeOfDecode : Obligations.EncodeOfDecode := by
  intro w i h operands
  unfold decode at h
  split at h
  case h_1 => cases h; cases operands
  case h_2 => cases h; cases operands
  case h_9 => cases h; cases operands
  case h_10 => cases h
  all_goals
    obtain ⟨mbz, rfl⟩ := checkedMbz_eq_ok.1 h
    have zero {start len : Nat} := field_eq_zero (start := start) (len := len) mbz
  case h_3 hop =>
    exact commandWord_eq_of_fields hop (zero rfl) (zero rfl) rfl (zero rfl) (zero rfl) rfl
  case h_4 hop =>
    exact commandWord_eq_of_fields hop (modelBit_mField w).symm rfl (zero rfl) (zero rfl) (zero rfl) (zero rfl)
  case h_5 hop =>
    exact commandWord_eq_of_fields hop (modelBit_mField w).symm rfl rfl (zero rfl) (zero rfl) rfl
  case h_6 hop =>
    exact commandWord_eq_of_fields hop (modelBit_mField w).symm rfl rfl (zero rfl) (zero rfl) rfl
  case h_7 hop =>
    exact commandWord_eq_of_fields hop (modelBit_mField w).symm rfl rfl rfl (zero rfl) (zero rfl)
  case h_8 hop =>
    exact commandWord_eq_of_fields hop (modelBit_mField w).symm rfl rfl rfl (zero rfl) (zero rfl)

/-- Settles O1: each word is evaluated. -/
theorem writtenWordsDecode : Obligations.WrittenWordsDecode := ⟨rfl, rfl, rfl, rfl, rfl, rfl, rfl⟩

end Sys2Proof
end

section
/-! SUPPORT. What a command does whose operands are in range, or out of it (rules R88 and R231), and the steps
of a scheduled event (rules R80 and R231). -/

namespace Sys2Proof.Machine

/-! ### Operands that are out of range -/

theorem combOperand_of_gt {sel : BitVec 3} (h : 4 < sel.toNat) : combOperand sel = .error .badSel := by
  rcases combOperand_spec sel with ⟨hin, _⟩ | ⟨_, hout⟩
  · exact absurd (of_decide_eq_true hin) (by omega)
  · exact hout

theorem combOperand_of_le {sel : BitVec 3} (h : sel.toNat ≤ 4) :
    ∃ c, combOperand sel = .ok c ∧ (combIndex c).val = sel.toNat := by
  rcases combOperand_spec sel with ⟨_, hc⟩ | ⟨hin, _⟩
  · exact hc
  · exact absurd h (of_decide_eq_false hin)

theorem kindOperand_of_gt {sel : BitVec 3} (h : 3 < sel.toNat) : kindOperand sel = .error .badSel := by
  rcases kindOperand_spec sel with ⟨hin, _⟩ | ⟨_, hout⟩
  · exact absurd (of_decide_eq_true hin) (by omega)
  · exact hout

theorem fieldOperand_of_gt {idx : BitVec 5} (h : 5 < idx.toNat) : fieldOperand idx = .error .badIdx := by
  rcases fieldOperand_spec idx with ⟨hin, _⟩ | ⟨_, hout⟩
  · exact absurd (of_decide_eq_true hin) (by omega)
  · exact hout

theorem weightOperand_of_gt {idx : BitVec 5} (h : 24 < idx.toNat) : weightOperand idx = .error .badIdx := by
  rcases weightOperand_spec idx with ⟨hin, _⟩ | ⟨_, hout⟩
  · exact absurd (of_decide_eq_true hin) (by omega)
  · exact hout

/-! ### Reading an entry and a combined table -/

section
variable {s : State} {m : ChipModel} {v : BitVec 2} {k : VClass} {sel : BitVec 3} {c : Comb} {p : Phase}
  {idx : BitVec 5} {e : ParamEntry} {cause : FaultCause}

theorem State.entryOperand_of_vclass_error (hv : vclassOperand v = .error cause) :
    s.entryOperand m v sel = .error cause := by simp [State.entryOperand, hv]

theorem State.entryOperand_of_comb_error (hv : vclassOperand v = .ok k) (hc : combOperand sel = .error cause) :
    s.entryOperand m v sel = .error cause := by simp [State.entryOperand, hv, hc]

theorem State.entryOperand_of_ok (hv : vclassOperand v = .ok k) (hc : combOperand sel = .ok c) :
    s.entryOperand m v sel = .ok (romEntry s.params.paramRom m k c) := by simp [State.entryOperand, hv, hc]

theorem State.combOperands_of_vclass_error (hv : vclassOperand v = .error cause) :
    s.combOperands m v sel p = .error cause := by simp [State.combOperands, hv]

theorem State.combOperands_of_comb_error (hv : vclassOperand v = .ok k) (hc : combOperand sel = .error cause) :
    s.combOperands m v sel p = .error cause := by simp [State.combOperands, hv, hc]

theorem State.combOperands_of_built (hv : vclassOperand v = .ok k) (hc : combOperand sel = .ok c)
    (built : builtBit s.built (slotIndex m k) = true) :
    s.combOperands m v sel p = .ok (sampleData (s.readComb (slotIndex m k) c p)) := by
  simp [State.combOperands, hv, hc, built]

/-! ### The commands on a block that is not faulted -/

variable (clear : s.fault = false)
include clear

theorem exec_rdbasic_of_kind_error (hk : kindOperand sel = .error cause) :
    exec (.rdbasic sel p) s = .next (s.raiseFault cause) := by
  rw [exec, execRdbasic, State.unlessFaulted_of_false clear, hk]
  rfl

theorem exec_build_of_vclass_error (hv : vclassOperand v = .error cause) :
    exec (.build m v) s = .next (s.raiseFault cause) := by
  rw [exec, execBuild, State.unlessFaulted_of_false clear, hv]

theorem exec_build_of_vclass (hv : vclassOperand v = .ok k) :
    exec (.build m v) s = .next (s.buildOrHit m k) := by
  rw [exec, execBuild, State.unlessFaulted_of_false clear, hv]

theorem exec_rdcomb_of_clear :
    exec (.rdcomb m v sel p) s = .next (s.answer (s.combOperands m v sel p)) := by
  rw [exec, execRdcomb, State.unlessFaulted_of_false clear]

theorem exec_calculate_of_clear : exec (.calculate m v sel p) s
    = .next (s.answer ((s.entryOperand m v sel).map fun e =>
        sampleData (pulldownCalc s.params.numerics e p))) := by
  rw [exec, execCalc, State.unlessFaulted_of_false clear]

theorem exec_rdparam_of_entry_error (he : s.entryOperand m v sel = .error cause) :
    exec (.rdparam m v sel idx) s = .next (s.raiseFault cause) := by
  rw [exec, execRdparam, State.unlessFaulted_of_false clear, he]
  rfl

theorem exec_rdparam_of_entry (he : s.entryOperand m v sel = .ok e) :
    exec (.rdparam m v sel idx) s = .next (s.answer ((fieldOperand idx).map (fieldData e))) := by
  rw [exec, execRdparam, State.unlessFaulted_of_false clear, he]

theorem exec_rddist_of_entry_error (he : s.entryOperand m v sel = .error cause) :
    exec (.rddist m v sel idx) s = .next (s.raiseFault cause) := by
  rw [exec, execRddist, State.unlessFaulted_of_false clear, he]
  rfl

theorem exec_rddist_of_entry (he : s.entryOperand m v sel = .ok e) : exec (.rddist m v sel idx) s
    = .next (s.answer ((weightOperand idx).map (distanceEntry s.params.numerics e))) := by
  rw [exec, execRddist, State.unlessFaulted_of_false clear, he]

/-- The four commands that name an entry fail alike where M, V and SEL name none. -/
theorem exec_of_entry_error (he : s.entryOperand m v sel = .error cause)
    (hr : s.combOperands m v sel p = .error cause) :
    exec (.rdcomb m v sel p) s = .next (s.raiseFault cause)
      ∧ exec (.calculate m v sel p) s = .next (s.raiseFault cause)
      ∧ exec (.rdparam m v sel idx) s = .next (s.raiseFault cause)
      ∧ exec (.rddist m v sel idx) s = .next (s.raiseFault cause) := by
  refine ⟨?_, ?_, exec_rdparam_of_entry_error clear he, exec_rddist_of_entry_error clear he⟩
  · rw [exec_rdcomb_of_clear clear, hr]; rfl
  · rw [exec_calculate_of_clear clear, he]; rfl

end

/-! ### Every effect of a command -/

/-- Two responses of one command's port, one behind the other. -/
theorem State.Responds.own_trans {s t u : State} {r r' : Response} {port : Port} (first : s.Responds t r)
    (second : t.Responds u r') (same : t.cmd = s.cmd) (hp : s.ports[s.cmd.port]? = some port) :
    u.ports[s.cmd.port]? = some { port with responses := port.responses ++ [r, r'] } := by
  have own := second.own { port with responses := port.responses ++ [r] }
  rw [same] at own
  simpa using own (first.own port hp)

/-- A fill touches no port, so the response after it is the one response of the command. -/
theorem State.responds_fillSlot_respond (s : State) (m : ChipModel) (v : VClass) (st : RspStatus) (d : Word) :
    s.Responds ((s.fillSlot m v).respond st d) ⟨st, d⟩ :=
  have h := (s.fillSlot m v).responds_respond st d
  ⟨h.count, h.others, h.own⟩

/-- Whatever a command does, its port gets exactly one response (rule R80). -/
theorem CommandEffect.exists_response {s t : State} (h : CommandEffect s t) : ∃ r, s.Responds t r := by
  cases h with
  | responds st d h => exact ⟨_, h ▸ s.responds_respond st d⟩
  | faults c clear named h => exact ⟨_, h ▸ s.responds_raiseFault c⟩
  | fills m v clear miss h => exact ⟨_, h ▸ s.responds_fillSlot_respond ..⟩

/-! ### Scheduled events -/

section
variable {s : State} {p : Nat} {rest : List Event} {port : Port}

theorem step_of_events {e : Event} (h : s.events = e :: rest) : step s = stepEvent e (s.advance rest) := by
  rw [step, h]

theorem step_accept (h : s.events = .accept p :: rest) : step s
    = .next ((s.advance rest).modifyPort p fun port => port.acceptOffer s.params.maxOutstanding) :=
  step_of_events h

theorem step_deliver (h : s.events = .deliver p :: rest) :
    step s = .next ((s.advance rest).modifyPort p Port.deliverResponse) := step_of_events h

theorem step_perform {w : Word} {ws : List Word} (h : s.events = .perform p :: rest)
    (hp : s.ports[p]? = some port) (ha : port.accepted = w :: ws) :
    step s = runCommand ((s.advance rest).takeUp p port w ws) := by
  rw [step_of_events h, stepEvent, State.takeCommand_of_accepted (s := s.advance rest) hp ha]

theorem State.modifyPort_own_port (f : Port → Port) (hp : s.ports[p]? = some port) :
    (s.modifyPort p f).ports[p]? = some (f port) := by simp [hp]

theorem State.modifyPort_other_port (f : Port → Port) {q : Nat} (h : q ≠ p) :
    (s.modifyPort p f).ports[q]? = s.ports[q]? := by simp [Ne.symm h]

end

theorem Port.acceptOffer_of_offers {port : Port} {w : Word} {ws : List Word} (h : port.offers = w :: ws)
    (limit : Nat) : port.acceptOffer limit = if port.accepted.length + port.responses.length < limit
      then { port with offers := ws, accepted := port.accepted ++ [w] } else port := by
  simp only [Port.acceptOffer, h]
  exact if_congr decide_eq_true_iff rfl rfl

theorem Port.deliverResponse_of_responses {port : Port} {r : Response} {rs : List Response}
    (h : port.responses = r :: rs) : port.deliverResponse
      = { port with responses := rs, delivered := port.delivered ++ [r] } := by
  simp [Port.deliverResponse, h]

end Sys2Proof.Machine
end

section
/-! SUPPORT. The body of BUILD (rule R162): whether it hits or misses, the slot then reads as the calculator's
function, and one response is given. -/

namespace Sys2Proof.Machine

section
variable (s : State) (m : ChipModel) (k : VClass)

theorem State.buildOrHit_of_built (h : builtBit s.built (slotIndex m k) = true) :
    s.buildOrHit m k = s.respond .ok (buildData (slotIndex m k) true) := by
  rw [State.buildOrHit, if_pos h]

theorem State.buildOrHit_of_unbuilt (h : builtBit s.built (slotIndex m k) = false) :
    s.buildOrHit m k = (s.fillSlot m k).respond .ok (buildData (slotIndex m k) false) := by
  rw [State.buildOrHit, if_neg (by simp [h])]

@[simp] theorem State.buildOrHit_fault : (s.buildOrHit m k).fault = s.fault := by
  unfold State.buildOrHit; split <;> rfl

@[simp] theorem State.buildOrHit_cmd : (s.buildOrHit m k).cmd = s.cmd := by
  unfold State.buildOrHit; split <;> rfl

/-- After a BUILD the slot is built. -/
theorem State.builtBit_buildOrHit : builtBit (s.buildOrHit m k).built (slotIndex m k) = true := by
  cases h : builtBit s.built (slotIndex m k) with
  | true => rw [s.buildOrHit_of_built m k h]; exact h
  | false => rw [s.buildOrHit_of_unbuilt m k h]; simp

theorem State.responds_buildOrHit :
    ∃ hit, s.Responds (s.buildOrHit m k) ⟨.ok, buildData (slotIndex m k) hit⟩ := by
  cases h : builtBit s.built (slotIndex m k) with
  | true => exact ⟨true, s.buildOrHit_of_built m k h ▸ s.responds_respond ..⟩
  | false => exact ⟨false, s.buildOrHit_of_unbuilt m k h ▸ s.responds_fillSlot_respond ..⟩

end

/-- After a BUILD the slot reads as the calculator's function, by the invariant or because it was just filled. -/
theorem State.BuiltSlotsHold.readComb_buildOrHit {s : State} (h : s.BuiltSlotsHold) (m : ChipModel) (k : VClass)
    (c : Comb) (p : Phase) : (s.buildOrHit m k).readComb (slotIndex m k) c p
      = pulldownCalc s.params.numerics (romEntry s.params.paramRom m k c) p := by
  cases built : builtBit s.built (slotIndex m k) with
  | true =>
    rw [s.buildOrHit_of_built m k built]
    exact h m k built c p
  | false =>
    rw [s.buildOrHit_of_unbuilt m k built]
    exact s.readComb_fillSlot_same m k c p

end Sys2Proof.Machine
end

section
/-! SUPPORT. The codes the assembler writes (rule R90). -/

namespace Sys2Proof

/-- A concatenation as a number. -/
theorem toNat_append_eq_add {n k : Nat} (x : BitVec n) (y : BitVec k) :
    (x ++ y).toNat = x.toNat * 2 ^ k + y.toNat := by
  rw [BitVec.toNat_append, ← Nat.shiftLeft_add_eq_or_of_lt y.isLt, Nat.shiftLeft_eq]

theorem toNat_commandWord (op : BitVec 4) (m : BitVec 1) (v : BitVec 2) (sel : BitVec 3) (idx : BitVec 5)
    (phase : Phase) : (commandWord op m v sel idx phase).toNat
      = op.toNat * 2 ^ 28 + m.toNat * 2 ^ 27 + v.toNat * 2 ^ 25 + sel.toNat * 2 ^ 22 + idx.toNat * 2 ^ 17
        + phase.toNat := by
  simp only [commandWord, toNat_append_eq_add, show (0 : BitVec 5).toNat = 0 from rfl]
  omega

namespace Machine

@[simp] theorem vclassOperand_vclassCode (k : VClass) : vclassOperand (vclassCode k) = .ok k := by
  cases k <;> rfl

@[simp] theorem combOperand_combCode (c : Comb) : combOperand (combCode c) = .ok c := by cases c <;> rfl

@[simp] theorem toNat_modelBit (m : ChipModel) : (modelBit m).toNat = (modelIndex m).val := by cases m <;> rfl

@[simp] theorem toNat_vclassCode (k : VClass) : (vclassCode k).toNat = (vclassIndex k).val := by cases k <;> rfl

@[simp] theorem toNat_combCode (c : Comb) : (combCode c).toNat = (combIndex c).val := by cases c <;> rfl

@[simp] theorem vInRange_vclassCode (k : VClass) : vInRange (vclassCode k) = true := by cases k <;> rfl

@[simp] theorem combInRange_combCode (c : Comb) : combInRange (combCode c) = true := by cases c <;> rfl

@[simp] theorem kindInRange_kindCode (k : BasicKind) : kindInRange (kindCode k) = true := by cases k <;> rfl

@[simp] theorem fieldInRange_fieldCode (f : ParamField) : fieldInRange (fieldCode f) = true := by cases f <;> rfl

end Machine

end Sys2Proof
end

section
/-! Settles the statements about commands and their responses (rules R80, R81, R87, R88, R90 and R91). -/

namespace Sys2Proof.Machine

/-- Settles O11: whatever the word, the effect of performing it is one response on the port it was taken up
from. -/
theorem eachCommandAnswersOnce : Obligations.EachCommandAnswersOnce := by
  intro s p rest port w ws hev hp ha
  have hlt : p < s.ports.length := (List.getElem?_eq_some_iff.1 hp).1
  obtain ⟨t, ht, effect⟩ := runCommand_effect ((s.advance rest).takeUp p port w ws)
  obtain ⟨r, -, others, own⟩ := effect.exists_response
  refine ⟨t, r, (step_perform hev hp ha).trans ht, ?_, ?_, fun q hq => ?_⟩
  · exact own { port with accepted := ws } (by simp [hlt])
  · cases r.status <;> rfl
  · simpa [Ne.symm hq] using others q hq

/-- Settles O30: the BUILD leaves the slot built and holding the calculator's function, whether it hits or
misses, so the RDCOMB reads the sample. -/
theorem lookupAnswersSample : Obligations.LookupAnswersSample := by
  intro s m k c p clear tables
  have clear' : (s.buildOrHit m k).fault = false := (s.buildOrHit_fault m k).trans clear
  have build := exec_build_of_vclass (m := m) clear (vclassOperand_vclassCode k)
  have read := exec_rdcomb_of_clear (m := m) (v := vclassCode k) (sel := combCode c) (p := p) clear'
  rw [State.combOperands_of_built (vclassOperand_vclassCode k) (combOperand_combCode c)
    (s.builtBit_buildOrHit m k), tables.readComb_buildOrHit] at read
  refine ⟨_, _, _, _, rfl, build, read, clear', fun port hp => ?_⟩
  obtain ⟨hit, first⟩ := s.responds_buildOrHit m k
  exact ⟨_, first.own_trans (State.responds_respond _ .ok _) (s.buildOrHit_cmd m k) hp⟩

/-- Settles O4: OP alone decodes the three, and each of them only responds. -/
theorem inspectionIgnoresOperandBits : Obligations.InspectionIgnoresOperandBits := by
  intro w
  refine ⟨fun h => decode_nop ((opField_eq_iff w 0).2 h), fun h => decode_status ((opField_eq_iff w 1).2 h),
    fun h => decode_rdfault ((opField_eq_iff w 8).2 h), fun s t i _ hi h => ?_⟩
  cases i with
  | nop => cases h; exact s.sameFault_respond ..
  | status => cases h; exact s.sameFault_respond ..
  | rdfault => cases h; exact s.sameFault_respond ..
  | _ => cases hi

/-- Settles O7: the event changes the one port, by the accept or the deliver of that port. -/
theorem stepMovesTransfers : Obligations.StepMovesTransfers := by
  intro s p rest port
  constructor
  · intro hev hp
    refine ⟨_, step_accept hev, ⟨rfl, rfl, rfl⟩, ⟨rfl, rfl, rfl⟩, rfl,
      fun q hq => State.modifyPort_other_port _ hq, fun w ws offers => ?_⟩
    exact (State.modifyPort_own_port _ hp).trans (congrArg some (Port.acceptOffer_of_offers offers _))
  · intro hev hp
    refine ⟨_, step_deliver hev, ⟨rfl, rfl, rfl⟩, ⟨rfl, rfl, rfl⟩, rfl,
      fun q hq => State.modifyPort_other_port _ hq, fun r rs responses => ?_⟩
    exact (State.modifyPort_own_port _ hp).trans (congrArg some (Port.deliverResponse_of_responses responses))

/-- Settles O9: a token's code is in range, so only a number can be out of it; the word is the sum of its fields
at their places. -/
theorem assembledCommandsWellFormed : Obligations.AssembledCommandsWellFormed := by
  refine ⟨fun f => ?_, fun m k c i => ?_, by decide, fun m k c o lo hi => ?_⟩
  · cases f with
    | rddist m k c i =>
      simp only [assemble, Instr.wellFormed, vInRange_vclassCode, combInRange_combCode, Bool.true_and,
        weightInRange, decide_eq_true_eq]
      exact ⟨fun h m' k' c' i' heq => by cases heq; exact h, fun h => h m k c i rfl⟩
    | _ => simp [assemble, Instr.wellFormed]
  · rw [assemble, encode, toNat_commandWord, toNat_modelBit, toNat_vclassCode, toNat_combCode,
      show (0x7 : BitVec 4).toNat * 2 ^ 28 = 0x70000000 from rfl, show (0 : Phase).toNat = 0 from rfl, Nat.add_zero]
  · refine ⟨BitVec.ofNat 5 (o + 12).toNat, ?_, if_pos ⟨lo, hi⟩⟩
    rw [BitVec.toNat_ofNat]
    omega

/-- Settles O46: V is checked first, then SEL, then IDX. -/
theorem rangeFaults : Obligations.RangeFaults := by
  intro s m v sel idx p clear
  refine ⟨fun hv => ?_, fun hv hsel => ?_, fun hsel => ?_, fun hv hsel hidx => ?_, fun hv hsel hidx => ?_⟩
  · subst hv
    exact ⟨exec_build_of_vclass_error clear vclassOperand_three,
      exec_of_entry_error clear (State.entryOperand_of_vclass_error vclassOperand_three)
        (State.combOperands_of_vclass_error vclassOperand_three)⟩
  · obtain ⟨k, hk, -⟩ := vclassOperand_of_ne_three hv
    have hc := combOperand_of_gt hsel
    exact exec_of_entry_error clear (State.entryOperand_of_comb_error hk hc)
      (State.combOperands_of_comb_error hk hc)
  · exact exec_rdbasic_of_kind_error clear (kindOperand_of_gt hsel)
  · obtain ⟨k, hk, -⟩ := vclassOperand_of_ne_three hv
    obtain ⟨c, hc, -⟩ := combOperand_of_le hsel
    rw [exec_rdparam_of_entry clear (State.entryOperand_of_ok hk hc), fieldOperand_of_gt hidx]
    rfl
  · obtain ⟨k, hk, -⟩ := vclassOperand_of_ne_three hv
    obtain ⟨c, hc, -⟩ := combOperand_of_le hsel
    rw [exec_rddist_of_entry clear (State.entryOperand_of_ok hk hc), weightOperand_of_gt hidx]
    rfl

end Sys2Proof.Machine
end

section
/-! SUPPORT. The distance functions and the distance table (rules R100 to R108), and the reads of an entry's
field and of a weight (rules R109 and R110). -/

namespace Sys2Proof.Machine

/-! ### The exponential function -/

/-- A positive number as its three checks. -/
theorem isPositive_iff_checks {a : Word} :
    isPositive a = true ↔ isFinite a = true ∧ isNeg a = false ∧ isZero a = false := by
  simp [isPositive, and_assoc]

theorem scaledMagnitude_pos {a : Word} (h : isZero a = false) : 0 < scaledMagnitude a := by
  rw [← natAbs_scaled]
  exact Int.natAbs_pos.2 (isZero_eq_false_iff.1 h)

/-- The power of a positive number is one rounding of its exact value. -/
theorem roundsTo_fpowNeg {d : Word} (h : isPositive d = true) (i : Nat) :
    RoundsTo (fpowNeg d i) (2 ^ (149 * (i + 1))) (scaledMagnitude d ^ i) := by
  obtain ⟨finite, nonneg, nonzero⟩ := isPositive_iff_checks.1 h
  rw [fpowNeg, if_pos (by simp [finite, nonzero]), nonneg, Bool.false_and]
  exact roundsTo_roundOnce (Nat.pow_pos (scaledMagnitude_pos nonzero)) (by norm_cast)

/-! ### The distance table -/

section
variable (n : Numerics) (e : ParamEntry) {j : Fin 25} {i : Nat}

theorem distanceEntry_below (h : j.val + i = 12) (hi : 1 ≤ i) :
    distanceEntry n e j = distanceFn n e.fn e.distance1 i := by
  rw [distanceEntry, if_pos (by omega), show 12 - j.val = i by omega]

theorem distanceEntry_above (h : j.val = 12 + i) (hi : 1 ≤ i) :
    distanceEntry n e j = distanceFn n e.fn e.distance2 i := by
  rw [distanceEntry, if_neg (by omega), if_neg (by omega), show j.val - 12 = i by omega]

end

/-! ### The reads -/

/-- The index of a weight, as a number, names it. -/
theorem weightOperand_ofNat {j : Nat} (h : j < 25) : weightOperand (BitVec.ofNat 5 j) = .ok ⟨j, h⟩ := by
  have code : (BitVec.ofNat 5 j).toNat = j := by rw [BitVec.toNat_ofNat]; omega
  simp [weightOperand, code, h]

section
variable {s : State} {m : ChipModel} {v : BitVec 2} {sel : BitVec 3} {e : ParamEntry}
  (clear : s.fault = false) (he : s.entryOperand m v sel = .ok e)
include clear he

theorem exec_rdparam_of_field {idx : BitVec 5} {f : ParamField} (hf : fieldOperand idx = .ok f) :
    exec (.rdparam m v sel idx) s = .next (s.respond .ok (fieldData e f)) := by
  rw [exec_rdparam_of_entry clear he, hf]
  rfl

theorem exec_rddist_of_index {j : Nat} (h : j < 25) : exec (.rddist m v sel (BitVec.ofNat 5 j)) s
    = .next (s.respond .ok (distanceEntry s.params.numerics e ⟨j, h⟩)) := by
  rw [exec_rddist_of_entry clear he, weightOperand_ofNat h]
  rfl

end

end Sys2Proof.Machine
end

section
/-! Settles the statements about parameters and distances (rules R100 to R110). -/

namespace Sys2Proof.Machine

/-- Settles O43: the linear and quadratic functions are written so, and the exponential one is the power of a
positive number. -/
theorem distanceFormulas : Obligations.DistanceFormulas := fun _ i positive _ _ =>
  ⟨rfl, rfl, roundsTo_fpowNeg positive i⟩

/-- Settles O39: the index is `sb + 12 - cb`, and `cb` is at most 11. -/
theorem weightSides : Obligations.WeightSides := by
  intro sb cb
  have index : (weightIndex sb cb).val = sb.val + 12 - cb.val := rfl
  rw [index, Fin.lt_def, Fin.lt_def]
  omega

/-- Settles O40: each IDX names its field. -/
theorem rdparamAnswersField : Obligations.RdparamAnswersField := by
  intro s m v k sel c clear hv hc e
  have entry : s.entryOperand m v sel = .ok e :=
    State.entryOperand_of_ok (vclassOperand_of_index hv) (combOperand_of_index hc)
  have read {idx f} (hf : fieldOperand idx = .ok f) :
      exec (.rdparam m v sel idx) s = .next (s.respond .ok (fieldData e f)) :=
    exec_rdparam_of_field clear entry hf
  refine ⟨?selector, read (f := .threshold) rfl, read (f := .topbit) rfl, read (f := .pulsestrength) rfl,
    read (f := .distance1) rfl, read (f := .distance2) rfl⟩
  rw [read (f := .fn) rfl, fieldData]
  cases e.fn <;> rfl

/-- Settles O41: an index up to 24 reads its entry of the table, which the side of 12 it lies on decides. -/
theorem rddistAnswersWeight : Obligations.RddistAnswersWeight := by
  intro s m v k sel c clear hv hc e
  have entry : s.entryOperand m v sel = .ok e :=
    State.entryOperand_of_ok (vclassOperand_of_index hv) (combOperand_of_index hc)
  refine ⟨exec_rddist_of_index clear entry (j := 12) (by omega), fun i hi hi' => ⟨?below, ?above⟩⟩
  case below =>
    rw [exec_rddist_of_index clear entry (by omega), distanceEntry_below _ e (Nat.sub_add_cancel hi') hi]
  case above => rw [exec_rddist_of_index clear entry (by omega), distanceEntry_above _ e rfl hi]

/-- Settles O42: mirrored indices lie at the same offset from 12, on the two sides of it, or are both 12. -/
theorem equalDistancesSymmetricTable : Obligations.EqualDistancesSymmetricTable := by
  intro n e i j same mirrored
  wlog hij : i ≤ j generalizing i j
  · exact (this j i (by omega) (by omega)).symm
  rcases hij.eq_or_lt with rfl | hlt
  · rfl
  · rw [distanceEntry_below n e (i := 12 - i.val) (by omega) (by omega),
      distanceEntry_above n e (i := 12 - i.val) (by omega) (by omega), same]

end Sys2Proof.Machine
end

section
/-! SUPPORT. The product with 1.0 or 0.0, which rule R131 takes of `topbit` (rule R12). -/

namespace Sys2Proof.Machine

/-- A pattern is its sign and its magnitude. -/
theorem eq_of_isNeg_of_magnitude {a b : Word} (sign : isNeg a = isNeg b) (mag : magnitude a = magnitude b) :
    a = b := by
  have low : a.extractLsb' 0 31 = b.extractLsb' 0 31 := BitVec.eq_of_toNat_eq mag
  refine BitVec.eq_of_getLsbD_eq fun i hi => ?_
  rcases Nat.lt_succ_iff_lt_or_eq.1 hi with hlt | rfl
  · simpa [hlt] using congrArg (·.getLsbD i) low
  · exact sign

/-- A pattern is its sign and its value: the sign tells the two zeros apart. -/
theorem eq_of_isNeg_of_scaled {a b : Word} (sign : isNeg a = isNeg b) (value : scaled a = scaled b) : a = b := by
  have same : scaledMagnitude a = scaledMagnitude b := by rw [← natAbs_scaled, value, natAbs_scaled]
  have hab := scaledMagnitude_lt_iff (a := a) (b := b)
  have hba := scaledMagnitude_lt_iff (a := b) (b := a)
  exact eq_of_isNeg_of_magnitude sign (by omega)

/-- The largest finite value is 2^24 − 1 at the exponent 253. -/
theorem scaledMagnitude_le_of_isFinite {a : Word} (h : isFinite a = true) :
    scaledMagnitude a ≤ (2 ^ 24 - 1) * 2 ^ 253 := by
  obtain ⟨k, n, hmag, hn, hs⟩ := exists_significand a
  rw [isFinite, decide_eq_true_eq] at h
  rw [scaledMagnitude_of_significand hmag hs]
  have last : k ≤ 253 := by
    obtain ⟨-, hk⟩ := hs
    omega
  gcongr <;> omega

/-- What is rounded is a finite value itself, so the result has that value. -/
theorem RoundsTo.scaled_eq {r c : Word} {den : Nat} (h : RoundsTo r (scaled c * den) den) (hden : 0 < den)
    (hc : isFinite c = true) : scaled r = scaled c := by
  have hpos : (0 : Int) < den := by omega
  rcases h with ⟨-, -, nearest⟩ | ⟨-, -, past⟩
  · have exact0 := (nearest c hc).1
    rw [sub_self, abs_zero, abs_nonpos_iff, sub_eq_zero] at exact0
    exact mul_right_cancel₀ hpos.ne' exact0
  · rw [abs_mul, Nat.abs_cast, Int.abs_eq_natAbs, natAbs_scaled] at past
    have huge := le_of_mul_le_mul_right past hpos
    have small := scaledMagnitude_le_of_isFinite hc
    omega

theorem isNeg_fmul {a b : Word} (ha : isFinite a = true) (hb : isFinite b = true) :
    isNeg (fmul a b) = (isNeg a != isNeg b) := by
  simp only [fmul, isNaN_of_isFinite ha, isNaN_of_isFinite hb, isInf_of_isFinite ha, isInf_of_isFinite hb,
    Bool.or_self, Bool.false_eq_true, if_false, isNeg_roundOnce]

/-- A product that is a binary32 value is not rounded. -/
theorem fmul_eq_of_exact {a b c : Word} (ha : isFinite a = true) (hb : isFinite b = true)
    (hc : isFinite c = true) (sign : (isNeg a != isNeg b) = isNeg c)
    (value : scaled a * scaled b = scaled c * (2 ^ 149 : Nat)) : fmul a b = c := by
  have rounds := roundsTo_fmul ha hb
  rw [value] at rounds
  exact eq_of_isNeg_of_scaled ((isNeg_fmul ha hb).trans sign) (rounds.scaled_eq (by positivity) hc)

theorem fmul_fone {b : Word} (hb : isFinite b = true) : fmul fone b = b := by
  refine fmul_eq_of_exact rfl hb hb (Bool.false_bne _) ?_
  rw [show scaled fone = (2 ^ 149 : Nat) by decide, mul_comm]

theorem fmul_fzero {b : Word} (hb : isFinite b = true) (nonneg : isNeg b = false) : fmul fzero b = fzero := by
  refine fmul_eq_of_exact rfl hb rfl ((Bool.false_bne _).trans nonneg) ?_
  rw [show scaled fzero = 0 by decide, zero_mul, zero_mul]

theorem fgt_self (a : Word) : fgt a a = false := by simp [fgt]

/-- A positive value is greater than 0.0. -/
theorem fgt_fzero_of_isPositive {a : Word} (h : isPositive a = true) : fgt a fzero = true := by
  obtain ⟨finite, positive⟩ := isPositive_iff.1 h
  exact (fgt_iff (isNaN_of_isFinite finite) rfl).2 (orderKey_lt_iff.2 positive)

end Sys2Proof.Machine
end

section
/-! SUPPORT. The signal vector, the sums of an output bit and the sample (rules R130 to R135). -/

namespace Sys2Proof.Machine

open Sys2Proof.Claims

/-! ### The signal vector -/

section
variable (e : ParamEntry) (p : Phase)

theorem signal_of_ne_top {k : Fin 12} (h : k ≠ 11) : signal e p k = if p.getLsbD k.val then fone else fzero :=
  if_neg h

theorem signal_top : signal e p 11 = fmul (if p.getLsbD 11 then fone else fzero) e.topbit := rfl

/-- Scaling by a positive `topbit` replaces 1.0 by it and leaves 0.0. -/
theorem signal_top_of_isPositive (h : isPositive e.topbit = true) :
    signal e p 11 = if p.getLsbD 11 then e.topbit else fzero := by
  obtain ⟨finite, nonneg, -⟩ := isPositive_iff_checks.1 h
  rw [signal_top]
  cases p.getLsbD 11
  · exact fmul_fzero finite nonneg
  · exact fmul_fone finite

end

/-! ### The two sums -/

/-- One turn of the loop of rule R132 for the numerator. -/
def addPull (e : ParamEntry) (p : Phase) (sb : Fin 12) (avg : Word) (cb : Fin 12) : Word :=
  if cb = sb then avg
  else fadd avg (fmul (fsub fone (signal e p cb)) (distanceEntry .reference e (weightIndex sb cb)))

/-- One turn of the loop of rule R132 for the sum of the weights. -/
def addWeight (e : ParamEntry) (sb : Fin 12) (sum : Word) (cb : Fin 12) : Word :=
  if cb = sb then sum else fadd sum (distanceEntry .reference e (weightIndex sb cb))

section
variable (e : ParamEntry) (p : Phase) (sb : Fin 12)

theorem weightedSum_eq_foldl : weightedSum e p sb = bitPositions.foldl (addPull e p sb) fzero := rfl

theorem weightSum_eq_foldl : weightSum .reference e sb = bitPositions.foldl (addWeight e sb) fzero := rfl

/-- The loop takes one turn for each sum at every bit. -/
theorem sumsBelow_succ (cb : Fin 12) : sumsBelow e p sb (cb.val + 1)
    = (addPull e p sb (sumsBelow e p sb cb.val).1 cb, addWeight e sb (sumsBelow e p sb cb.val).2 cb) := by
  by_cases h : cb = sb
  · rw [sumsBelow, addPull, addWeight, dif_neg (by simp [h]), if_pos h, if_pos h]
  · rw [sumsBelow, addPull, addWeight, dif_pos ⟨cb.isLt, Fin.val_ne_of_ne h⟩, if_neg h, if_neg h]
    rfl

theorem bitPositions_take_succ (cb : Fin 12) :
    bitPositions.take (cb.val + 1) = bitPositions.take cb.val ++ [cb] := by
  revert cb; decide

/-- The loop over the bits below `k` folds the first `k` positions. -/
theorem sumsBelow_eq_foldl {k : Nat} (hk : k ≤ 12) : sumsBelow e p sb k
    = ((bitPositions.take k).foldl (addPull e p sb) fzero, (bitPositions.take k).foldl (addWeight e sb) fzero) := by
  induction k with
  | zero => rfl
  | succ k ih =>
    have turn := sumsBelow_succ e p sb ⟨k, hk⟩
    have positions := bitPositions_take_succ ⟨k, hk⟩
    rw [turn, positions, List.foldl_append, List.foldl_append, ih (Nat.le_of_succ_le hk)]
    rfl

/-- Over all twelve bits the loop gives the two sums. -/
theorem sumsBelow_twelve : sumsBelow e p sb 12 = (weightedSum e p sb, weightSum .reference e sb) :=
  sumsBelow_eq_foldl e p sb le_rfl

end

/-! ### The sample -/

/-- Every output bit is masked by its phase bit. -/
theorem pulldownCalc_and_phase (n : Numerics) (e : ParamEntry) (p : Phase) :
    pulldownCalc n e p &&& p = pulldownCalc n e p := by
  refine BitVec.eq_of_getLsbD_eq fun i hi => ?_
  rw [BitVec.getLsbD_and, getLsbD_pulldownCalc n e p ⟨i, hi⟩]
  cases p.getLsbD i <;> simp

theorem pulldownCalc_le_phase (n : Numerics) (e : ParamEntry) (p : Phase) :
    (pulldownCalc n e p).toNat ≤ p.toNat := by
  rw [← pulldownCalc_and_phase, BitVec.toNat_and]
  exact Nat.and_le_right

end Sys2Proof.Machine
end

section
/-! Settles the statements about the calculator (rules R130 to R139). -/

namespace Sys2Proof.Machine

/-- Settles O35: bit 11 alone is scaled, and the product of a positive `topbit` with 1.0 or 0.0 is exact. -/
theorem signalVector : Obligations.SignalVector := fun e p =>
  ⟨fun _ => signal_of_ne_top e p, signal_top e p, signal_top_of_isPositive e p⟩

/-- Settles O36: the loop gives both sums, and bit `sb` of the sample is the masked decision. -/
theorem outputBitDecision : Obligations.OutputBitDecision := by
  intro e p sb
  rw [sumsBelow_twelve]
  refine ⟨rfl, rfl, ?_⟩
  rw [getLsbD_pulldownCalc, Bool.and_eq_true]
  rfl

/-- Settles O37: the scaled bit is `topbit`, which is greater than 0.0, or 0.0, which is not. -/
theorem topBitReadingsAgree : Obligations.TopBitReadingsAgree := by
  intro e p positive
  rw [signal_top_of_isPositive e p positive]
  cases p.getLsbD 11
  · exact fgt_self fzero
  · exact fgt_fzero_of_isPositive positive

/-- Settles O38: all the laws follow from the mask. -/
theorem pulldownLaws : Obligations.PulldownLaws := by
  intro n e p
  refine ⟨Nat.le_of_lt_succ (pulldownCalc n e p).isLt, ?lacks, pulldownCalc_le_phase n e p, ?zero,
    fun k => ?single⟩
  case lacks =>
    rw [← pulldownCalc_and_phase, BitVec.and_assoc, BitVec.and_not_self]
    exact BitVec.and_zero
  case zero => exact BitVec.eq_of_toNat_eq (Nat.le_zero.1 (pulldownCalc_le_phase n e 0))
  case single =>
    have masked := pulldownCalc_and_phase n e (BitVec.twoPow 12 k.val)
    rw [BitVec.and_twoPow] at masked
    split at masked
    · exact .inr masked.symm
    · exact .inl masked.symm

/-- Settles O34: the class and the combination name the entry, and its sample is the response. -/
theorem calcAnswersSample : Obligations.CalcAnswersSample := by
  intro s m v k sel c p clear hv hc
  rw [exec_calculate_of_clear clear,
    State.entryOperand_of_ok (vclassOperand_of_index hv) (combOperand_of_index hc)]
  rfl

end Sys2Proof.Machine
end

section
/-! SUPPORT. What keeps the parts of a consistent state, operation by operation, command by command and event
by event (rules R40, R161, R163 and R265). -/

namespace Sys2Proof.Machine

variable {s t : State}

/-! ### The stores and the fault registers -/

/-- The filled slot holds the calculator's function, and every other built slot was built before. -/
theorem State.BuiltSlotsHold.fillSlot (h : s.BuiltSlotsHold) (m : ChipModel) (v : VClass) :
    (s.fillSlot m v).BuiltSlotsHold := by
  intro m' v' built c p
  by_cases same : slotIndex m' v' = slotIndex m v
  · obtain ⟨rfl, rfl⟩ := slotIndex_injective same
    exact s.readComb_fillSlot_same m' v' c p
  · rw [s.readComb_fillSlot_other m v same]
    exact h m' v' (by simpa [same] using built) c p

theorem State.CountHolds.fillSlot (h : s.CountHolds) {m : ChipModel} {v : VClass}
    (miss : builtBit s.built (slotIndex m v) = false) : (s.fillSlot m v).CountHolds := by
  rw [State.CountHolds, toNat_buildCount_fillSlot h m miss, h, State.fillSlot_built, builtTotal_setBuilt miss]

/-- The cause recorded names a fault. -/
theorem State.faultHolds_raiseFault (s : State) {c : FaultCause} (named : c ≠ .noFault) :
    (s.raiseFault c).FaultHolds := by simp [State.FaultHolds, named]

theorem State.Consistent.fillSlot (h : s.Consistent) {m : ChipModel} {v : VClass}
    (miss : builtBit s.built (slotIndex m v) = false) : (s.fillSlot m v).Consistent where
  tables := h.tables.fillSlot m v
  basic := h.basic.congr rfl
  count := h.count.fillSlot miss
  faults := h.faults
  ports := h.ports

/-! ### The limit of a port -/

theorem Port.outstanding_acceptOffer_le {port : Port} {limit : Nat} (h : port.outstanding ≤ limit) :
    (port.acceptOffer limit).outstanding ≤ limit := by
  unfold Port.acceptOffer
  split
  · exact h
  · split
    · next room =>
      have : port.outstanding < limit := of_decide_eq_true room
      simp only [Port.outstanding, List.length_append, List.length_singleton] at *
      omega
    · exact h

theorem Port.outstanding_deliverResponse_le (port : Port) :
    port.deliverResponse.outstanding ≤ port.outstanding := by
  cases responses : port.responses with
  | nil => simp [Port.deliverResponse, responses]
  | cons r rs =>
    simp [Port.deliverResponse_of_responses responses, Port.outstanding, responses]

theorem State.PortsHold.modifyPort (h : s.PortsHold) (p : Nat) {f : Port → Port}
    (keeps : ∀ port : Port, port.outstanding ≤ s.params.maxOutstanding →
      (f port).outstanding ≤ s.params.maxOutstanding) : (s.modifyPort p f).PortsHold := by
  intro port' hmem
  obtain ⟨q, hq⟩ := List.mem_iff_getElem?.1 hmem
  rw [State.modifyPort_ports, List.getElem?_modify] at hq
  obtain ⟨port, hport, rfl⟩ := Option.map_eq_some_iff.1 hq
  have limit := h port (List.mem_of_getElem? hport)
  split
  · exact keeps port limit
  · exact limit

/-- A command that is taken up leaves its port one place below the limit. -/
theorem State.PortsHold.outstanding_takeUp_lt (h : s.PortsHold) {p : Nat} {port : Port} {w : Word}
    {ws : List Word} (hp : s.ports[p]? = some port) (ha : port.accepted = w :: ws) :
    ({ port with accepted := ws } : Port).outstanding < s.params.maxOutstanding := by
  have limit := h port (List.mem_of_getElem? hp)
  simp only [Port.outstanding, ha, List.length_cons] at *
  omega

theorem State.PortsHold.takeUp (h : s.PortsHold) {p : Nat} {port : Port} {w : Word} {ws : List Word}
    (hp : s.ports[p]? = some port) (ha : port.accepted = w :: ws) : (s.takeUp p port w ws).PortsHold := by
  intro port' hmem
  rcases List.mem_or_eq_of_mem_set hmem with old | rfl
  · exact h port' old
  · exact (h.outstanding_takeUp_lt hp ha).le

/-- A response keeps the limit where its port has room for it. -/
theorem State.Responds.portsHold {r : Response} (h : s.Responds t r) (hs : s.PortsHold)
    (params : t.params = s.params)
    (room : ∀ port, s.ports[s.cmd.port]? = some port → port.outstanding < s.params.maxOutstanding) :
    t.PortsHold := by
  intro port' hmem
  obtain ⟨q, hq⟩ := List.mem_iff_getElem?.1 hmem
  rw [params]
  by_cases other : q = s.cmd.port
  · subst other
    have inside : s.cmd.port < s.ports.length := h.count ▸ (List.getElem?_eq_some_iff.1 hq).1
    have hp := List.getElem?_eq_getElem inside
    rw [h.own _ hp] at hq
    cases hq
    have := room _ hp
    simp only [Port.outstanding, List.length_append, List.length_singleton] at *
    omega
  · rw [h.others q other] at hq
    exact hs port' (List.mem_of_getElem? hq)

/-! ### Commands and events -/

/-- A command keeps everything but the limit of its port, which is a matter of the room it has there. -/
theorem CommandEffect.keeps_consistent (h : CommandEffect s t) (hs : s.Consistent) (ports : t.PortsHold) :
    t.Consistent := by
  cases h with
  | responds st d h =>
    subst h
    exact hs.congr rfl rfl (s.sameTables_respond st d) (s.sameFault_respond st d) ports
  | faults c clear named h =>
    subst h
    exact ⟨hs.tables.congr rfl rfl rfl, hs.basic.congr rfl, hs.count, s.faultHolds_raiseFault named, ports⟩
  | fills m v clear miss h =>
    subst h
    exact (hs.fillSlot miss).congr rfl rfl (State.sameTables_respond ..) (State.sameFault_respond ..) ports

theorem State.Consistent.modifyPort (h : s.Consistent) (p : Nat) {f : Port → Port}
    (keeps : ∀ port : Port, port.outstanding ≤ s.params.maxOutstanding →
      (f port).outstanding ≤ s.params.maxOutstanding) : (s.modifyPort p f).Consistent :=
  h.congr rfl rfl ⟨rfl, rfl, rfl⟩ ⟨rfl, rfl, rfl⟩ (h.ports.modifyPort p keeps)

theorem State.Consistent.takeUp (h : s.Consistent) {p : Nat} {port : Port} {w : Word} {ws : List Word}
    (hp : s.ports[p]? = some port) (ha : port.accepted = w :: ws) : (s.takeUp p port w ws).Consistent :=
  h.congr rfl rfl ⟨rfl, rfl, rfl⟩ ⟨rfl, rfl, rfl⟩ (h.ports.takeUp hp ha)

/-- After reset no slot is built, no fault is recorded and nothing is in flight. -/
theorem State.BasicTablesHold.consistent_resetBlock (h : s.BasicTablesHold) : s.resetBlock.Consistent where
  tables m v built := by simp [builtBit] at built
  basic := h.congr rfl
  count := by simp only [State.CountHolds, State.resetBlock_buildCount, State.resetBlock_built]; decide
  faults := by simp [State.FaultHolds]
  ports port hport := by
    obtain ⟨port, -, rfl⟩ := List.mem_map.1 hport
    exact Nat.zero_le _

theorem EventEffect.keeps_consistent {e : Event} (h : EventEffect s t e) (hs : s.Consistent) :
    t.Consistent := by
  have params := h.keeps_constants.1
  cases h with
  | accepts p h => exact h ▸ hs.modifyPort p fun _ => Port.outstanding_acceptOffer_le
  | skips p none h => exact h ▸ hs
  | performs p port w ws hp ha h =>
    obtain ⟨r, responds⟩ := h.exists_response
    have taken := hs.takeUp hp ha
    refine h.keeps_consistent taken (responds.portsHold taken.ports params fun port' hp' => ?_)
    have inside : p < s.ports.length := (List.getElem?_eq_some_iff.1 hp).1
    obtain rfl : { port with accepted := ws } = port' := by simpa [inside] using hp'
    exact hs.ports.outstanding_takeUp_lt hp ha
  | delivers p h => exact h ▸ hs.modifyPort p fun port => (Port.outstanding_deliverResponse_le port).trans
  | resets h => exact h ▸ hs.basic.consistent_resetBlock

end Sys2Proof.Machine
end

section
/-! Settles the statement about the invariant of the block (rules R40, R161, R163, R194 and R265). -/

namespace Sys2Proof.Machine

/-- Settles O56: the schedule and the arbiter's counter are no part of the invariant, and an event keeps it. -/
theorem stepKeepsConsistent : Obligations.StepKeepsConsistent := by
  intro s t hs h
  cases StepEffect.of_step h with
  | idle quiet none h => exact h ▸ hs
  | owes e quiet owed h =>
    exact h.keeps_consistent (hs.congr rfl rfl ⟨rfl, rfl, rfl⟩ ⟨rfl, rfl, rfl⟩ hs.ports)
  | takes e rest ev h =>
    exact h.keeps_consistent (hs.congr rfl rfl ⟨rfl, rfl, rfl⟩ ⟨rfl, rfl, rfl⟩ hs.ports)

end Sys2Proof.Machine
end

section
/-! SUPPORT. BUILD and RDCOMB, hit and miss, as commands and as scheduled performings (rules R162 and R165), and
built slots through every event but a reset (rule R164). -/

namespace Sys2Proof.Machine

open Sys2Proof.Claims

/-! ### The response and the frame of BUILD -/

theorem buildData_miss (slot : Fin 6) : buildData slot false = BitVec.ofNat 32 slot.val := by
  revert slot; decide

/-- Bit 8 is HIT (rule R162). -/
theorem buildData_hit (slot : Fin 6) : buildData slot true = BitVec.ofNat 32 (0x100 + slot.val) := by
  revert slot; decide

/-- The slot as rule R160 writes it. -/
theorem slotIndex_val_of_index {k : VClass} {v : BitVec 2} (h : (vclassIndex k).val = v.toNat) (m : ChipModel) :
    (slotIndex m k).val = 3 * (modelIndex m).val + v.toNat := h ▸ rfl

theorem State.sameSetting_buildOrHit (s : State) (m : ChipModel) (k : VClass) :
    s.SameSetting (s.buildOrHit m k) := by
  unfold State.buildOrHit; split <;> exact ⟨rfl, rfl, rfl, rfl, rfl, rfl⟩

theorem State.sameFault_buildOrHit (s : State) (m : ChipModel) (k : VClass) :
    s.SameFault (s.buildOrHit m k) := by
  unfold State.buildOrHit; split <;> exact ⟨rfl, rfl, rfl⟩

/-- BUILD leaves every slot but its own. -/
theorem State.buildOrHit_other_slot (s : State) (m : ChipModel) (k : VClass) {j : Fin 6}
    (other : j ≠ slotIndex m k) : (s.buildOrHit m k).combLut[j] = s.combLut[j]
      ∧ builtBit (s.buildOrHit m k).built j = builtBit s.built j := by
  cases built : builtBit s.built (slotIndex m k) with
  | true => rw [s.buildOrHit_of_built m k built]; exact ⟨rfl, rfl⟩
  | false =>
    rw [s.buildOrHit_of_unbuilt m k built]
    exact ⟨s.combLut_fillSlot_other m k other, by simp [other]⟩

/-- What BUILD can do: a faulted block answers FAULTED; V = 3 enters BAD_VCLASS; any other V names the class of
the slot that is hit or filled. -/
inductive BuildEffect (m : ChipModel) (v : BitVec 2) (s t : State) : Prop where
  | refuses (faulted : s.fault = true) (h : t = s.respond .faulted 0)
  | faults (clear : s.fault = false) (three : v = 3) (h : t = s.raiseFault .badVclass)
  | builds (k : VClass) (hk : (vclassIndex k).val = v.toNat) (clear : s.fault = false) (h : t = s.buildOrHit m k)

theorem BuildEffect.of_exec {m : ChipModel} {v : BitVec 2} {s t : State} (h : exec (.build m v) s = .next t) :
    BuildEffect m v s t := by
  cases fault : s.fault with
  | true =>
    rw [exec, execBuild, State.unlessFaulted_of_true fault] at h
    cases h
    exact .refuses fault rfl
  | false =>
    by_cases three : v = 3
    · subst three
      cases h.symm.trans (exec_build_of_vclass_error fault vclassOperand_three)
      exact .faults fault rfl rfl
    · obtain ⟨k, hk, index⟩ := vclassOperand_of_ne_three three
      cases h.symm.trans (exec_build_of_vclass fault hk)
      exact .builds k index fault rfl

/-! ### BUILD and RDCOMB on a block that is not faulted -/

theorem State.combOperands_of_unbuilt {s : State} {m : ChipModel} {v : BitVec 2} {k : VClass} {sel : BitVec 3}
    {c : Comb} {p : Phase} (hk : vclassOperand v = .ok k) (hc : combOperand sel = .ok c)
    (unbuilt : builtBit s.built (slotIndex m k) = false) : s.combOperands m v sel p = .error .notBuilt := by
  simp [State.combOperands, hk, hc, unbuilt]

section
variable {s : State} {m : ChipModel} {v : BitVec 2} {k : VClass} (clear : s.fault = false)
  (hk : vclassOperand v = .ok k)
include clear hk

theorem exec_build_of_built (built : builtBit s.built (slotIndex m k) = true) : exec (.build m v) s
    = .next (s.respond .ok (BitVec.ofNat 32 (0x100 + (slotIndex m k).val))) := by
  rw [exec_build_of_vclass clear hk, s.buildOrHit_of_built m k built, buildData_hit]

theorem exec_build_of_unbuilt (unbuilt : builtBit s.built (slotIndex m k) = false) : exec (.build m v) s
    = .next ((s.fillSlot m k).respond .ok (BitVec.ofNat 32 (slotIndex m k).val)) := by
  rw [exec_build_of_vclass clear hk, s.buildOrHit_of_unbuilt m k unbuilt, buildData_miss]

/-- Each of `n` BUILDs of a built slot is a hit. -/
theorem execTimes_build_of_built (built : builtBit s.built (slotIndex m k) = true) {port : Port}
    (hp : s.ports[s.cmd.port]? = some port) (n : Nat) :
    ∃ t, execTimes (.build m v) n s = .next t ∧ t.buildCount = s.buildCount
      ∧ t.ports[s.cmd.port]? = some { port with
          responses := port.responses
            ++ List.replicate n ⟨.ok, BitVec.ofNat 32 (0x100 + (slotIndex m k).val)⟩ } := by
  induction n generalizing s port with
  | zero => exact ⟨s, rfl, rfl, by simpa using hp⟩
  | succ n ih =>
    obtain ⟨t, run, count, own⟩ := ih (s := s.respond .ok _) clear built (s.respond_own_port .ok _ hp)
    refine ⟨t, ?_, count, ?_⟩
    · rw [execTimes, exec_build_of_built clear hk built]
      exact run
    · rw [List.append_assoc, List.singleton_append, ← List.replicate_succ] at own
      exact own

variable {sel : BitVec 3} {c : Comb} {p : Phase} (hc : combOperand sel = .ok c)
include hc

theorem exec_rdcomb_of_built (built : builtBit s.built (slotIndex m k) = true) : exec (.rdcomb m v sel p) s
    = .next (s.respond .ok (sampleData (s.readComb (slotIndex m k) c p))) := by
  rw [exec_rdcomb_of_clear clear, State.combOperands_of_built hk hc built, State.answer_ok]

theorem exec_rdcomb_of_unbuilt (unbuilt : builtBit s.built (slotIndex m k) = false) :
    exec (.rdcomb m v sel p) s = .next (s.raiseFault .notBuilt) := by
  rw [exec_rdcomb_of_clear clear, State.combOperands_of_unbuilt hk hc unbuilt, State.answer_error]

end

/-! ### A scheduled BUILD -/

/-- Performing a word leaves the port it was taken up from with the word gone and the response there, and leaves
every other port. -/
theorem State.Responds.ports_of_takeUp {s t : State} {p : Nat} {port : Port} {w : Word} {ws : List Word}
    {r : Response} (h : (s.takeUp p port w ws).Responds t r) (hp : s.ports[p]? = some port) :
    t.ports[p]? = some { port with accepted := ws, responses := port.responses ++ [r] }
      ∧ ∀ q, q ≠ p → t.ports[q]? = s.ports[q]? := by
  have inside : p < s.ports.length := (List.getElem?_eq_some_iff.1 hp).1
  constructor
  · exact h.own { port with accepted := ws } (by simp [inside])
  · intro q hq
    simpa [Ne.symm hq] using h.others q hq

section
variable {s : State} {m : ChipModel} {v : BitVec 2} {k : VClass} {p : Nat} {rest : List Event} {port : Port}
  {w : Word} {ws : List Word} (hev : s.events = .perform p :: rest) (hp : s.ports[p]? = some port)
  (ha : port.accepted = w :: ws) (hd : decode w = .ok (.build m v))
include hev hp ha hd

theorem step_perform_build : step s = exec (.build m v) ((s.advance rest).takeUp p port w ws) := by
  rw [step_perform hev hp ha, runCommand, State.takeUp_cmd, hd]

variable (clear : s.fault = false) (hk : vclassOperand v = .ok k)
include clear hk

theorem step_perform_build_miss (unbuilt : builtBit s.built (slotIndex m k) = false) :
    ∃ t, step s = .next t ∧ t.fault = false ∧ t.events = rest ∧ builtBit t.built (slotIndex m k) = true
      ∧ t.buildCount = s.buildCount + 1
      ∧ t.ports[p]? = some { port with accepted := ws, responses := port.responses
          ++ [⟨.ok, BitVec.ofNat 32 (slotIndex m k).val⟩] }
      ∧ ∀ q, q ≠ p → t.ports[q]? = s.ports[q]? := by
  have run := exec_build_of_unbuilt (s := (s.advance rest).takeUp p port w ws) clear hk unbuilt
  have responds := State.responds_fillSlot_respond ((s.advance rest).takeUp p port w ws) m k .ok
    (BitVec.ofNat 32 (slotIndex m k).val)
  exact ⟨_, (step_perform_build hev hp ha hd).trans run, clear, rfl, by simp, rfl, responds.ports_of_takeUp hp⟩

theorem step_perform_build_hit (built : builtBit s.built (slotIndex m k) = true) :
    ∃ t, step s = .next t ∧ t.built = s.built ∧ t.buildCount = s.buildCount
      ∧ t.ports[p]? = some { port with accepted := ws, responses := port.responses
          ++ [⟨.ok, BitVec.ofNat 32 (0x100 + (slotIndex m k).val)⟩] }
      ∧ ∀ q, q ≠ p → t.ports[q]? = s.ports[q]? := by
  have run := exec_build_of_built (s := (s.advance rest).takeUp p port w ws) clear hk built
  exact ⟨_, (step_perform_build hev hp ha hd).trans run, rfl, rfl,
    (State.responds_respond _ .ok _).ports_of_takeUp hp⟩

end

/-! ### Built slots -/

/-- A command fills only a slot that was not built. -/
theorem CommandEffect.keeps_built_slot {s t : State} (h : CommandEffect s t) {j : Fin 6}
    (built : builtBit s.built j = true) : builtBit t.built j = true ∧ t.combLut[j] = s.combLut[j] := by
  cases h with
  | responds st d h => subst h; exact ⟨built, rfl⟩
  | faults c clear named h => subst h; exact ⟨built, rfl⟩
  | fills m v clear miss h =>
    subst h
    have other : j ≠ slotIndex m v := by rintro rfl; simp [built] at miss
    exact ⟨by simp [built], s.combLut_fillSlot_other m v other⟩

theorem EventEffect.keeps_built_slot {s t : State} {e : Event} (h : EventEffect s t e) (noReset : e ≠ .reset)
    {j : Fin 6} (built : builtBit s.built j = true) :
    builtBit t.built j = true ∧ t.combLut[j] = s.combLut[j] := by
  cases h with
  | accepts p h => subst h; exact ⟨built, rfl⟩
  | skips p none h => subst h; exact ⟨built, rfl⟩
  | performs p port w ws hp ha h => exact h.keeps_built_slot (s := s.takeUp p port w ws) built
  | delivers p h => subst h; exact ⟨built, rfl⟩
  | resets h => exact absurd rfl noReset

/-- The block never resets itself. -/
theorem State.ne_reset_of_mem_owedMoves {s : State} {e : Event} (h : e ∈ s.owedMoves) : e ≠ .reset := by
  obtain ⟨p, port, -, ⟨rfl, -⟩ | ⟨rfl, -⟩⟩ := State.mem_owedMoves.1 h <;> exact Event.noConfusion

end Sys2Proof.Machine
end

section
/-! Settles the statements about BUILD, RDCOMB and the slots they share (rules R160 to R168). -/

namespace Sys2Proof.Machine

open Sys2Proof.Claims

/-- Settles O22: each pair is evaluated. -/
theorem slotNumbers : Obligations.SlotNumbers := ⟨rfl, rfl, rfl, rfl, rfl, rfl⟩

/-- Settles O24: a hit only responds. -/
theorem buildHitChangesNothing : Obligations.BuildHitChangesNothing := by
  intro s m v k clear hv built
  rw [exec_build_of_built clear (vclassOperand_of_index hv) built, slotIndex_val_of_index hv, Nat.add_assoc]

/-- Settles O25: the operands name the slot and the combination, and the slot is built. -/
theorem rdcombReadsBuiltSlot : Obligations.RdcombReadsBuiltSlot := by
  intro s m v k sel c p clear hv hc built
  exact exec_rdcomb_of_built clear (vclassOperand_of_index hv) (combOperand_of_index hc) built

/-- Settles O26: the operands pass their range checks, and the slot is not built. -/
theorem rdcombOfUnbuiltSlotFaults : Obligations.RdcombOfUnbuiltSlotFaults := by
  intro s m v k sel c p clear hv hc unbuilt
  exact exec_rdcomb_of_unbuilt clear (vclassOperand_of_index hv) (combOperand_of_index hc) unbuilt

/-- Settles O23: a miss is a fill of the slot and a response. -/
theorem buildMissFillsSlot : Obligations.BuildMissFillsSlot := by
  intro s m v k clear hv unbuilt
  refine ⟨_, exec_build_of_unbuilt clear (vclassOperand_of_index hv) unbuilt, s.readComb_fillSlot_same m k,
    fun j other => s.combLut_fillSlot_other m k other, fun j => builtBit_setBuilt .., rfl, ⟨rfl, rfl, rfl⟩,
    ⟨rfl, rfl, rfl, rfl, rfl, rfl⟩, ?_⟩
  rw [← slotIndex_val_of_index hv]
  exact s.responds_fillSlot_respond m k ..

/-- Settles O27: both refuse a faulted block and both check SEL, and in range the built slot holds the
calculator's sample. -/
theorem rdcombEqualsCalc : Obligations.RdcombEqualsCalc := by
  intro s m v k sel p tables hv built
  have hk := vclassOperand_of_index hv
  cases fault : s.fault with
  | true => simp only [exec, execRdcomb, execCalc, State.unlessFaulted_of_true fault]
  | false =>
    cases hc : combOperand sel with
    | error cause =>
      obtain ⟨rdcomb, calculate, -⟩ := exec_of_entry_error (idx := 0) fault
        (State.entryOperand_of_comb_error hk hc) (State.combOperands_of_comb_error hk hc)
      exact rdcomb.trans calculate.symm
    | ok c =>
      rw [exec_rdcomb_of_built fault hk hc built, tables m k built c p, exec_calculate_of_clear fault,
        State.entryOperand_of_ok hk hc]
      rfl

/-- Settles O28: the first performing is a miss, which leaves the other port as it was and the slot built, so
the second is a hit. -/
theorem concurrentBuildsBuildOnce : Obligations.ConcurrentBuildsBuildOnce := by
  intro s m v k p q rest a b x y xs ys clear hv unbuilt hpq hev hp ha hx hq hb hy
  have hk := vclassOperand_of_index hv
  obtain ⟨t, first, clear', events, built, count, own, others⟩ :=
    step_perform_build_miss hev hp ha hx clear hk unbuilt
  obtain ⟨u, second, built', count', own', others'⟩ :=
    step_perform_build_hit events ((others q hpq.symm).trans hq) hb hy clear' hk built
  exact ⟨t, u, first, second, count'.trans count, built' ▸ built, (others' p hpq).trans own, own'⟩

/-- Settles O29: after the miss the slot is built, so every further BUILD is a hit. -/
theorem repeatedBuildsBuildOnce : Obligations.RepeatedBuildsBuildOnce := by
  intro n s m v k port clear hv unbuilt hp
  have hk := vclassOperand_of_index hv
  obtain ⟨t, run, count, own⟩ := execTimes_build_of_built (m := m)
    (s := (s.fillSlot m k).respond .ok (BitVec.ofNat 32 (slotIndex m k).val)) clear hk (by simp)
    ((s.responds_fillSlot_respond m k ..).own port hp) n
  refine ⟨t, ?_, count, own⟩
  rw [execTimes, exec_build_of_unbuilt clear hk unbuilt]
  exact run

/-- Settles O31: no event but a reset clears a BUILT bit or fills a built slot, and the block owes no reset. -/
theorem builtSlotsAreImmutable : Obligations.BuiltSlotsAreImmutable := by
  intro s t j h noReset built
  cases StepEffect.of_step h with
  | idle quiet none h => subst h; exact ⟨built, rfl⟩
  | owes e quiet owed h =>
    exact h.keeps_built_slot (s := s.drawArbiter) (State.ne_reset_of_mem_owedMoves owed) built
  | takes e rest ev h =>
    refine h.keeps_built_slot (s := s.advance rest) ?_ built
    rintro rfl
    exact noReset (by rw [ev]; rfl)

/-- Settles O52: BUILD is refused, faults, or hits or fills the slot it names. -/
theorem buildFrame : Obligations.BuildFrame := by
  intro m v s t h
  cases BuildEffect.of_exec h with
  | refuses faulted h =>
    subst h
    exact ⟨s.sameSetting_respond .., ⟨_, s.responds_respond ..⟩, fun _ _ => ⟨rfl, rfl⟩,
      fun _ => s.sameFault_respond .., fun _ => s.sameTables_respond ..⟩
  | faults clear three h =>
    subst h
    exact ⟨s.sameSetting_raiseFault _, ⟨_, s.responds_raiseFault _⟩, fun _ _ => ⟨rfl, rfl⟩,
      by simp [three, clear], fun _ => s.sameTables_raiseFault _⟩
  | builds k hk clear h =>
    subst h
    obtain ⟨hit, responds⟩ := s.responds_buildOrHit m k
    have inRange : v ≠ 3 := by rintro rfl; exact absurd hk (by cases k <;> decide)
    refine ⟨s.sameSetting_buildOrHit m k, ⟨_, responds⟩,
      fun j other => s.buildOrHit_other_slot m k (other k hk),
      fun _ => s.sameFault_buildOrHit m k, ?_⟩
    rintro (three | faulted)
    · exact absurd three inRange
    · simp [clear] at faulted

/-- Settles O58: condition (f) of rule R34 gives the combination and the phase, and slots 0 and 3 hold the
calculator's samples of the two AVERAGE entries. -/
theorem builtModelsDiffer : Obligations.BuiltModelsDiffer := by
  intro s admitted tables built0 built3
  obtain ⟨-, -, differ⟩ := paramsAdmitted_iff.1 admitted
  obtain ⟨c, p, hne⟩ := modelsDiffer_iff.1 differ
  rw [← tables .mos6581 .average built0, ← tables .mos8580 .average built3] at hne
  exact ⟨c, p, hne⟩

end Sys2Proof.Machine
end

section
/-! SUPPORT. The fold of the triangle, samples whose bit 0 is clear, BASIC_LUT at reset, and RDBASIC of a kind
(rules R190 to R196). -/

namespace Sys2Proof.Machine

/-! ### The contents at reset -/

theorem State.basicTablesHold_reset : State.reset.BasicTablesHold :=
  (consistent_powerOn State.reset.params 0).basic.congr rfl

/-! ### The samples -/

/-- The fold of rule R191, with the bit tested for 0 as the rule has it. -/
theorem basicTriangle_eq (p : Phase) :
    basicTriangle p = (if p.getLsbD 11 = false then p else p ^^^ 0xFFF) <<< 1 := by
  rw [basicTriangle]
  cases p.getLsbD 11 <;> rfl

theorem getLsbD_zero_basicTriangle (p : Phase) : (basicTriangle p).getLsbD 0 = false := by
  rw [basicTriangle, BitVec.getLsbD_shiftLeft]
  rfl

theorem getLsbD_zero_basicPulseAndShift (p : Phase) : (basicPulseAndShift p).getLsbD 0 = false := by
  rw [basicPulseAndShift, BitVec.getLsbD_and, BitVec.getLsbD_shiftLeft]
  exact Bool.and_false _

/-- A sample whose bit 0 is clear is even. -/
theorem toNat_even_of_getLsbD_zero {x : Sample} (h : x.getLsbD 0 = false) : x.toNat % 2 = 0 := by
  rw [BitVec.getLsbD, Nat.testBit_zero, decide_eq_false_iff_not] at h
  exact Nat.mod_two_ne_one.1 h

/-- The greatest sample whose bit 0 is clear is 4094: the next one, 4095, is odd. -/
theorem toNat_le_4094_of_getLsbD_zero {x : Sample} (h : x.getLsbD 0 = false) : x.toNat ≤ 4094 := by
  have even := toNat_even_of_getLsbD_zero h
  have inside : x.toNat < 4096 := x.isLt
  omega

/-! ### RDBASIC -/

theorem exec_rdbasic_of_kind {s : State} {sel : BitVec 3} {k : BasicKind} {p : Phase} (clear : s.fault = false)
    (hk : kindOperand sel = .ok k) :
    exec (.rdbasic sel p) s = .next (s.respond .ok (sampleData (s.readBasic k p))) := by
  rw [exec, execRdbasic, State.unlessFaulted_of_false clear, hk]
  rfl

end Sys2Proof.Machine
end

section
/-! Settles the statements about the basic tables (rules R190 to R196). -/

namespace Sys2Proof.Machine

/-- Settles O21: bit 0 of the triangle and of pulse-AND-shift is clear, since each takes it from a value shifted
left by one; the sawtooth is a 12-bit value. -/
theorem basicSampleRanges : Obligations.BasicSampleRanges := by
  intro s p h
  obtain ⟨high, tri, saw, pas⟩ := h p
  rw [high, tri, saw, pas]
  have triBit := getLsbD_zero_basicTriangle p
  have pasBit := getLsbD_zero_basicPulseAndShift p
  exact ⟨rfl, toNat_le_4094_of_getLsbD_zero triBit, toNat_even_of_getLsbD_zero triBit,
    Nat.le_of_lt_succ p.isLt, toNat_le_4094_of_getLsbD_zero pasBit, pasBit⟩

/-- Settles O19: the tables hold their contents at reset, and the triangle is the fold of rule R191. -/
theorem basicTableContents : Obligations.BasicTableContents := by
  intro p
  rw [← basicTriangle_eq]
  exact State.basicTablesHold_reset p

/-- Settles O20: SEL 0 to 3 name the four kinds, and the sample of each is what its table holds. -/
theorem rdbasicAnswersSample : Obligations.RdbasicAnswersSample := by
  intro s p clear h
  obtain ⟨high, tri, saw, pas⟩ := h p
  rw [exec_rdbasic_of_kind (k := .high) clear rfl, exec_rdbasic_of_kind (k := .tri) clear rfl,
    exec_rdbasic_of_kind (k := .saw) clear rfl, exec_rdbasic_of_kind (k := .pas) clear rfl,
    high, tri, saw, pas, basicTriangle_eq]
  exact ⟨rfl, rfl, rfl, rfl⟩

end Sys2Proof.Machine
end

section
/-! SUPPORT. The commands that inspect the block, performed from their words, the fields of the STATUS view, and
the fault registers of a block that is faulted (rules R41, R87 and R233). -/

namespace Sys2Proof.Machine

open Sys2Proof.Claims

variable {s t : State}

/-! ### A word that decodes -/

theorem runCommand_of_decode {i : Instr} (h : decode s.cmd.word = .ok i) : runCommand s = exec i s := by
  rw [runCommand, h]

theorem exec_nop (s : State) : exec .nop s = .next (s.respond .ok 0) := rfl

theorem exec_status (s : State) : exec .status s = .next (s.respond .ok s.statusView) := rfl

theorem exec_rdfault (s : State) : exec .rdfault s = .next (s.respond .ok s.faultWord) := rfl

theorem runCommand_nop (h : (s.cmd.word >>> 28).toNat = 0) : runCommand s = .next (s.respond .ok 0) :=
  (runCommand_of_decode (decode_nop ((opField_eq_iff _ 0).2 h))).trans (exec_nop s)

theorem runCommand_status (h : (s.cmd.word >>> 28).toNat = 1) :
    runCommand s = .next (s.respond .ok s.statusView) :=
  (runCommand_of_decode (decode_status ((opField_eq_iff _ 1).2 h))).trans (exec_status s)

theorem runCommand_rdfault (h : (s.cmd.word >>> 28).toNat = 8) :
    runCommand s = .next (s.respond .ok s.faultWord) :=
  (runCommand_of_decode (decode_rdfault ((opField_eq_iff _ 8).2 h))).trans (exec_rdfault s)

/-! ### The STATUS view -/

/-- The codes the model gives the causes are those of rule R230. -/
theorem causeCode_eq_causeNumber (c : FaultCause) : causeCode c = BitVec.ofNat 4 (causeNumber c) := by
  cases c <;> rfl

/-- The view is its parts side by side, so a range of bits that one part takes up is that part. -/
theorem State.statusView_fields (s : State) :
    s.statusView.extractLsb' 0 6 = s.built ∧ s.statusView.extractLsb' 6 2 = 0
      ∧ s.statusView.extractLsb' 8 3 = s.buildCount ∧ s.statusView.extractLsb' 11 5 = 0
      ∧ s.statusView.extractLsb' 16 1 = BitVec.ofBool s.fault ∧ s.statusView.extractLsb' 17 3 = 0
      ∧ s.statusView.extractLsb' 20 4 = causeCode s.faultCause := by
  simp (disch := omega) only [statusView, BitVec.extractLsb'_setWidth_of_le, BitVec.extractLsb'_append_eq_of_le,
    BitVec.extractLsb'_append_eq_of_add_le, BitVec.extractLsb'_eq_self, Nat.reduceSub, and_self]

/-- Above its 24 bits of parts the view is zero-extended. -/
theorem State.statusView_top (s : State) : s.statusView.extractLsb' 24 8 = 0 := by
  rw [statusView]
  ext i hi
  simp

/-! ### A faulted block -/

/-- A command on a faulted block only responds, and a response leaves the fault registers. -/
theorem CommandEffect.sameFault_of_faulted (h : CommandEffect s t) (faulted : s.fault = true) :
    s.SameFault t := by
  cases h with
  | responds st d h => exact h ▸ s.sameFault_respond st d
  | faults c clear => simp [clear] at faulted
  | fills m v clear => simp [clear] at faulted

end Sys2Proof.Machine
end

section
/-! Settles the statements about the commands that inspect the block (rules R210 to R212). -/

namespace Sys2Proof.Machine

/-- Settles O16: OP 0 alone decodes to NOP, and NOP is under no lock-out. -/
theorem nopAnswersZero : Obligations.NopAnswersZero := fun s => ⟨exec_nop s, runCommand_nop⟩

/-- Settles O17: the answer is the view, whose 32 bits are its parts and zeros. -/
theorem statusShowsStatusState : Obligations.StatusShowsStatusState := by
  refine ⟨fun s => ⟨s.statusView, exec_status s, runCommand_status, ?_⟩, rfl⟩
  obtain ⟨built, gap6, count, gap11, fault, gap17, cause⟩ := s.statusView_fields
  exact ⟨built, gap6, count, gap11, fault, gap17, cause.trans (causeCode_eq_causeNumber _), s.statusView_top⟩

/-- Settles O18: fault entry records the word, and a command on a faulted block leaves the fault registers. -/
theorem rdfaultShowsFaultWord : Obligations.RdfaultShowsFaultWord := by
  refine fun s => ⟨exec_rdfault s, runCommand_rdfault, fun ⟨_, zero⟩ clear => ?_, fun c i t h => ?_⟩
  · rw [exec_rdfault, zero clear]
  · obtain ⟨t', ht, effect⟩ := exec_effect i (s.raiseFault c)
    obtain rfl : t' = t := Host.Outcome.next.inj (ht.symm.trans h)
    exact (effect.sameFault_of_faulted (s.raiseFault_fault c)).faultWord.trans (s.raiseFault_faultWord c)

end Sys2Proof.Machine
end

section
/-! SUPPORT. The checks of rule R231 as one value, the cause of the first that fails, read off the command word, off
the decoding and off the operands, and what performing a command does by it. -/

namespace Sys2Proof.Machine

open Sys2Proof.Claims

/-! ### The cause an operand fails with -/

/-- The cause of a check that fails, and none if it passes. -/
def failedCheck {α : Type} : Except FaultCause α → Option FaultCause
  | .ok _ => none
  | .error c => some c

@[simp] theorem failedCheck_map {α β : Type} (f : α → β) (r : Except FaultCause α) :
    failedCheck (r.map f) = failedCheck r := by
  cases r <;> rfl

/-- A check that fails hides those after it. -/
@[simp] theorem ite_some_or {α : Type} (p : Prop) [Decidable p] (a : α) (q r : Option α) :
    (if p then some a else q).or r = if p then some a else q.or r := by
  split <;> rfl

@[simp] theorem failedCheck_vclassOperand (v : BitVec 2) :
    failedCheck (vclassOperand v) = if v.toNat = 3 then some .badVclass else none := by
  revert v; decide

@[simp] theorem failedCheck_combOperand (sel : BitVec 3) :
    failedCheck (combOperand sel) = if 4 < sel.toNat then some .badSel else none := by
  revert sel; decide

@[simp] theorem failedCheck_kindOperand (sel : BitVec 3) :
    failedCheck (kindOperand sel) = if 3 < sel.toNat then some .badSel else none := by
  revert sel; decide

@[simp] theorem failedCheck_fieldOperand (idx : BitVec 5) :
    failedCheck (fieldOperand idx) = if 5 < idx.toNat then some .badIdx else none := by
  revert idx; decide

@[simp] theorem failedCheck_weightOperand (idx : BitVec 5) :
    failedCheck (weightOperand idx) = if 24 < idx.toNat then some .badIdx else none := by
  revert idx; decide

section
variable (s : State) (m : ChipModel) (v : BitVec 2) (sel : BitVec 3) (p : Phase)

/-- V is checked before SEL. -/
@[simp] theorem failedCheck_entryOperand : failedCheck (s.entryOperand m v sel)
    = (failedCheck (vclassOperand v)).or (failedCheck (combOperand sel)) := by
  cases hv : vclassOperand v with
  | error c => rw [State.entryOperand_of_vclass_error hv]; rfl
  | ok k =>
    cases hc : combOperand sel with
    | error c => rw [State.entryOperand_of_comb_error hv hc]; rfl
    | ok c => rw [State.entryOperand_of_ok hv hc]; rfl

/-- V is checked before SEL, and SEL before the BUILT bit of slot `3·M + V`. -/
@[simp] theorem failedCheck_combOperands : failedCheck (s.combOperands m v sel p)
    = ((failedCheck (vclassOperand v)).or (failedCheck (combOperand sel))).or
        (if s.built.getLsbD (3 * (modelIndex m).val + v.toNat) = false then some .notBuilt else none) := by
  rcases vclassOperand_spec v with ⟨-, k, hv, index⟩ | ⟨-, hv⟩
  · rw [← slotIndex_val_of_index index m, ← builtBit, hv]
    cases hc : combOperand sel with
    | error c => rw [State.combOperands_of_comb_error hv hc]; rfl
    | ok c =>
      cases built : builtBit s.built (slotIndex m k) with
      | true => rw [State.combOperands_of_built hv hc built]; rfl
      | false => rw [State.combOperands_of_unbuilt hv hc built]; rfl
  · rw [State.combOperands_of_vclass_error hv, hv]; rfl

end

/-- Steps 4 to 7 of rule R231: the cause of the first operand of the command that fails its check. -/
def State.operandFailure (s : State) : Instr → Option FaultCause
  | .nop => none
  | .status => none
  | .rdbasic sel _ => failedCheck (kindOperand sel)
  | .build _ v => failedCheck (vclassOperand v)
  | .rdcomb m v sel p => failedCheck (s.combOperands m v sel p)
  | .calculate m v sel _ => failedCheck (s.entryOperand m v sel)
  | .rdparam m v sel idx => (failedCheck (s.entryOperand m v sel)).or (failedCheck (fieldOperand idx))
  | .rddist m v sel idx => (failedCheck (s.entryOperand m v sel)).or (failedCheck (weightOperand idx))
  | .rdfault => none

/-! ### What a command does by its checks -/

/-- Checks whose first failure is `check` decide the outcome: fault entry with its cause, or, with none failing, a
next state that is not faulted. -/
inductive Decides (s : State) : Option FaultCause → Host.Outcome State Fault Refusal → Prop where
  | fails (c : FaultCause) : Decides s (some c) (.next (s.raiseFault c))
  | passes (t : State) (clear : t.fault = false) : Decides s none (.next t)

section
variable {s t : State} {check : Option FaultCause} {o : Host.Outcome State Fault Refusal}

theorem Decides.eq_raiseFault {c : FaultCause} (h : Decides s check o) (failed : check = some c) :
    o = .next (s.raiseFault c) := by
  subst failed
  cases h
  rfl

theorem Decides.exists_clear (h : Decides s check o) (passed : check = none) :
    ∃ t, o = .next t ∧ t.fault = false := by
  subst passed
  cases h with
  | passes t clear => exact ⟨t, rfl, clear⟩

/-- A command that ends faulted failed the check whose cause is recorded. -/
theorem Decides.check_of_faulted (h : Decides s check o) (ho : o = .next t) (faulted : t.fault = true) :
    check = some t.faultCause := by
  cases h with
  | fails c => cases ho; rfl
  | passes u clear => cases ho; simp [clear] at faulted

theorem Decides.answer (clear : s.fault = false) (r : Except FaultCause Word) :
    Decides s (failedCheck r) (.next (s.answer r)) := by
  cases r with
  | ok d => exact .passes _ clear
  | error c => exact .fails c

/-- On a block that is not faulted the checks of its operands decide what a command does. -/
theorem exec_decided (clear : s.fault = false) (i : Instr) : Decides s (s.operandFailure i) (exec i s) := by
  cases i with
  | nop => exact .passes _ clear
  | status => exact .passes _ clear
  | rdfault => exact .passes _ clear
  | rdbasic sel p =>
    rw [exec, execRdbasic, State.unlessFaulted_of_false clear, State.operandFailure, ← failedCheck_map]
    exact .answer clear _
  | build m v =>
    rw [State.operandFailure]
    cases hv : vclassOperand v with
    | error c => rw [exec_build_of_vclass_error clear hv]; exact .fails c
    | ok k => rw [exec_build_of_vclass clear hv]; exact .passes _ ((s.buildOrHit_fault m k).trans clear)
  | rdcomb m v sel p =>
    rw [exec_rdcomb_of_clear clear]
    exact .answer clear _
  | calculate m v sel p =>
    rw [exec_calculate_of_clear clear, State.operandFailure, ← failedCheck_map]
    exact .answer clear _
  | rdparam m v sel idx =>
    rw [State.operandFailure]
    cases he : s.entryOperand m v sel with
    | error c => rw [exec_rdparam_of_entry_error clear he]; exact .fails c
    | ok e =>
      rw [exec_rdparam_of_entry clear he, ← failedCheck_map (fieldData e) (fieldOperand idx)]
      exact .answer clear _
  | rddist m v sel idx =>
    rw [State.operandFailure]
    cases he : s.entryOperand m v sel with
    | error c => rw [exec_rddist_of_entry_error clear he]; exact .fails c
    | ok e =>
      rw [exec_rddist_of_entry clear he,
        ← failedCheck_map (distanceEntry s.params.numerics e) (weightOperand idx)]
      exact .answer clear _

end

/-! ### What a word does by its checks -/

/-- The cause of a word that is no command. -/
def rejectCause : DecodeError → FaultCause
  | .illegalOp => .illegalOp
  | .reservedNonzero => .reservedNonzero

theorem State.rejectWord_of_clear {s : State} (clear : s.fault = false) (e : DecodeError) :
    s.rejectWord e = s.raiseFault (rejectCause e) := by
  cases e <;> exact State.unlessFaulted_of_false clear

theorem runCommand_of_decode_error {s : State} {e : DecodeError} (h : decode s.cmd.word = .error e) :
    runCommand s = .next (s.rejectWord e) := by
  rw [runCommand, h]

/-- Steps 1 to 7 of rule R231 on a decoded word. -/
def State.decodedFailure (s : State) : Except DecodeError Instr → Option FaultCause
  | .ok i => s.operandFailure i
  | .error e => some (rejectCause e)

@[simp] theorem State.decodedFailure_ok (s : State) (i : Instr) :
    s.decodedFailure (.ok i) = s.operandFailure i := rfl

/-- On a block that is not faulted the checks of its word decide what performing it does. -/
theorem runCommand_decided {s : State} (clear : s.fault = false) :
    Decides s (s.decodedFailure (decode s.cmd.word)) (runCommand s) := by
  cases hd : decode s.cmd.word with
  | ok i => rw [runCommand_of_decode hd]; exact exec_decided clear i
  | error e => rw [runCommand_of_decode_error hd, State.rejectWord_of_clear clear]; exact .fails _

/-- Step 3 of rule R231 comes before the checks of the operands. -/
@[simp] theorem State.decodedFailure_checkedMbz (s : State) (w mask : Word) (i : Instr) :
    s.decodedFailure (checkedMbz w mask i)
      = if w &&& mask ≠ 0 then some .reservedNonzero else s.operandFailure i := by
  rw [checkedMbz, ite_not]
  split <;> rfl

theorem toNat_opField (w : Word) : (opField w).toNat = (w >>> 28).toNat := ((opField_eq_iff w _).1 rfl).symm

theorem modelIndex_mField (w : Word) : (modelIndex (mField w)).val = (w.extractLsb' 27 1).toNat := by
  rw [← modelBit_mField, toNat_modelBit]

/-- The checks of rule R231 as its pseudocode reads them off the word are those of the word's decoding. -/
theorem firstFailure_eq_decodedFailure (s : State) (w : Word) :
    firstFailure w s.built = s.decodedFailure (decode w) := by
  rw [decode, toNat_opField]
  split
  case h_1 hop | h_2 hop | h_9 hop => simp [firstFailure, hop, State.operandFailure]
  case h_3 hop | h_4 hop | h_5 hop | h_6 hop | h_7 hop | h_8 hop =>
    simp [firstFailure, hop, mustBeZero, State.operandFailure, modelIndex_mField, vField, selField, idxField]
  case h_10 =>
    have illegal : 9 ≤ (w >>> 28).toNat := by
      simp only [imp_false] at *
      omega
    rw [firstFailure, if_neg (by omega), if_pos illegal]
    rfl

/-! ### A well-formed command -/

theorem vclassOperand_of_inRange {v : BitVec 2} (h : vInRange v = true) :
    ∃ k, vclassOperand v = .ok k ∧ (vclassIndex k).val = v.toNat :=
  vclassOperand_of_ne_three (by rintro rfl; cases h)

theorem combOperand_of_inRange {sel : BitVec 3} (h : combInRange sel = true) :
    ∃ c, combOperand sel = .ok c ∧ (combIndex c).val = sel.toNat :=
  combOperand_of_le (of_decide_eq_true h)

theorem failedCheck_entryOperand_of_inRange (s : State) (m : ChipModel) {v : BitVec 2} {sel : BitVec 3}
    (hv : vInRange v = true) (hsel : combInRange sel = true) : failedCheck (s.entryOperand m v sel) = none := by
  obtain ⟨k, hk, -⟩ := vclassOperand_of_inRange hv
  obtain ⟨c, hc, -⟩ := combOperand_of_inRange hsel
  rw [State.entryOperand_of_ok hk hc]
  rfl

/-- Every check of a well-formed command passes but that of the BUILT bit, which RDCOMB alone has. -/
theorem State.operandFailure_of_wellFormed {s : State} {i : Instr} (h : i.wellFormed = true)
    (other : ∀ m v sel p, i ≠ .rdcomb m v sel p) : s.operandFailure i = none := by
  cases i with
  | nop | status | rdfault => rfl
  | rdcomb m v sel p => exact absurd rfl (other m v sel p)
  | rdbasic sel p => simpa [State.operandFailure, Instr.wellFormed, kindInRange] using h
  | build m v =>
    obtain ⟨k, hk, -⟩ := vclassOperand_of_inRange h
    rw [State.operandFailure, hk]
    rfl
  | calculate m v sel p =>
    obtain ⟨hv, hsel⟩ := Bool.and_eq_true_iff.1 h
    exact failedCheck_entryOperand_of_inRange s m hv hsel
  | rdparam m v sel idx =>
    obtain ⟨entry, hidx⟩ := Bool.and_eq_true_iff.1 h
    obtain ⟨hv, hsel⟩ := Bool.and_eq_true_iff.1 entry
    rw [State.operandFailure, failedCheck_entryOperand_of_inRange s m hv hsel]
    simpa [fieldInRange] using hidx
  | rddist m v sel idx =>
    obtain ⟨entry, hidx⟩ := Bool.and_eq_true_iff.1 h
    obtain ⟨hv, hsel⟩ := Bool.and_eq_true_iff.1 entry
    rw [State.operandFailure, failedCheck_entryOperand_of_inRange s m hv hsel]
    simpa [weightInRange] using hidx

/-- A well-formed RDCOMB can fail its check of the BUILT bit alone. -/
theorem State.operandFailure_rdcomb {s : State} {m : ChipModel} {v : BitVec 2} {sel : BitVec 3} {p : Phase}
    {c : FaultCause} (h : (Instr.rdcomb m v sel p).wellFormed = true)
    (failed : s.operandFailure (.rdcomb m v sel p) = some c) :
    c = .notBuilt ∧ ∃ k, (vclassIndex k).val = v.toNat ∧ builtBit s.built (slotIndex m k) = false := by
  obtain ⟨hv, hsel⟩ := Bool.and_eq_true_iff.1 h
  obtain ⟨k, hk, index⟩ := vclassOperand_of_inRange hv
  obtain ⟨comb, hc, -⟩ := combOperand_of_inRange hsel
  rw [State.operandFailure] at failed
  cases built : builtBit s.built (slotIndex m k) with
  | true => rw [State.combOperands_of_built hk hc built] at failed; cases failed
  | false =>
    rw [State.combOperands_of_unbuilt hk hc built] at failed
    cases failed
    exact ⟨rfl, k, index, built⟩

end Sys2Proof.Machine
end

section
/-! SUPPORT. A faulted block: what it refuses, and what it keeps through every event but a reset (rules R233 to
R235). -/

namespace Sys2Proof.Machine

open Sys2Proof.Claims

variable {s t : State}

/-! ### The three commands that are never refused -/

/-- OP tells the commands that inspect the block (rule R87). -/
theorem inspects_of_decode {w : Word} {i : Instr} (h : decode w = .ok i) :
    inspects i = true ↔ (w >>> 28).toNat ∈ [0, 1, 8] := by
  rw [decode, toNat_opField] at h
  split at h
  case h_1 hop | h_2 hop | h_9 hop => cases h; simp [inspects, hop]
  case h_3 hop | h_4 hop | h_5 hop | h_6 hop | h_7 hop | h_8 hop =>
    obtain ⟨-, rfl⟩ := checkedMbz_eq_ok.1 h
    simp [inspects, hop]
  case h_10 => cases h

theorem exists_decode_of_inspection {w : Word} (h : (w >>> 28).toNat ∈ [0, 1, 8]) :
    ∃ i, inspects i = true ∧ decode w = .ok i := by
  simp only [List.mem_cons, List.not_mem_nil, or_false] at h
  rcases h with h | h | h
  · exact ⟨.nop, rfl, decode_nop ((opField_eq_iff w 0).2 h)⟩
  · exact ⟨.status, rfl, decode_status ((opField_eq_iff w 1).2 h)⟩
  · exact ⟨.rdfault, rfl, decode_rdfault ((opField_eq_iff w 8).2 h)⟩

section
variable (faulted : s.fault = true)
include faulted

/-! ### What a faulted block refuses -/

theorem exec_of_faulted {i : Instr} (hi : inspects i = false) : exec i s = .next (s.respond .faulted 0) := by
  cases i with
  | nop | status | rdfault => cases hi
  | _ => exact congrArg Host.Outcome.next (State.unlessFaulted_of_true faulted)

/-- The lock-out does not depend on whether the word decodes. -/
theorem runCommand_of_faulted (other : (s.cmd.word >>> 28).toNat ∉ [0, 1, 8]) :
    runCommand s = .next (s.respond .faulted 0) := by
  cases hd : decode s.cmd.word with
  | ok i =>
    have hi : inspects i = false := Bool.eq_false_iff.2 fun h => other ((inspects_of_decode hd).1 h)
    rw [runCommand_of_decode hd, exec_of_faulted faulted hi]
  | error e =>
    rw [runCommand_of_decode_error hd]
    exact congrArg Host.Outcome.next (State.unlessFaulted_of_true faulted)

/-! ### What a faulted block keeps -/

theorem CommandEffect.sameTables_of_faulted (h : CommandEffect s t) : s.SameTables t := by
  cases h with
  | responds st d h => exact h ▸ s.sameTables_respond st d
  | faults c clear => simp [clear] at faulted
  | fills m v clear => simp [clear] at faulted

/-- No event but a reset leaves the faulted state. -/
theorem EventEffect.keeps_of_faulted {e : Event} (h : EventEffect s t e) (noReset : e ≠ .reset) :
    s.SameFault t ∧ s.SameTables t := by
  cases h with
  | accepts p h => subst h; exact ⟨⟨rfl, rfl, rfl⟩, ⟨rfl, rfl, rfl⟩⟩
  | skips p none h => subst h; exact ⟨⟨rfl, rfl, rfl⟩, ⟨rfl, rfl, rfl⟩⟩
  | performs p port w ws hp ha h =>
    obtain ⟨fault, cause, word⟩ := h.sameFault_of_faulted (s := s.takeUp p port w ws) faulted
    obtain ⟨lut, built, count⟩ := h.sameTables_of_faulted (s := s.takeUp p port w ws) faulted
    exact ⟨⟨fault, cause, word⟩, ⟨lut, built, count⟩⟩
  | delivers p h => subst h; exact ⟨⟨rfl, rfl, rfl⟩, ⟨rfl, rfl, rfl⟩⟩
  | resets h => exact absurd rfl noReset

end

end Sys2Proof.Machine
end

section
/-! Settles the statements about the checks, faults and the faulted block (rules R67 and R230 to R235). -/

namespace Sys2Proof.Machine

open Sys2Proof.Claims

/-- Settles O10: each case of a step is a next state. -/
theorem stepAlwaysContinues : Obligations.StepAlwaysContinues := fun s =>
  (step_effect s).imp fun _ effect => effect.1

/-- Settles O6: the word is taken up, and it decodes. -/
theorem stepPerformsDecodedCommand : Obligations.StepPerformsDecodedCommand :=
  fun s p rest port w ws _ hev hp ha hd =>
    (step_perform hev hp ha).trans (runCommand_of_decode (s := (s.advance rest).takeUp p port w ws) hd)

/-- Settles O5: the checks read off the word are those of its decoding, which decide what performing it does. -/
theorem checksDecideInOrder : Obligations.ChecksDecideInOrder := by
  intro s
  rw [firstFailure_eq_decodedFailure]
  refine ⟨fun clear c failed => (runCommand_decided clear).eq_raiseFault failed, fun clear passed => ?_,
    runCommand_of_faulted, fun _ inspection => ?_⟩
  · obtain ⟨t, ht, clear'⟩ := (runCommand_decided clear).exists_clear passed
    cases hd : decode s.cmd.word with
    | error e => rw [hd] at passed; cases passed
    | ok i =>
      have performed := runCommand_of_decode hd
      exact ⟨i, t, rfl, performed, performed.symm.trans ht, clear'⟩
  · obtain ⟨i, hi, hd⟩ := exists_decode_of_inspection inspection
    exact ⟨i, hi, hd, runCommand_of_decode hd⟩

/-- Settles O47: a command that ends faulted failed a check, and the only one a well-formed command can fail is
RDCOMB's of the BUILT bit. -/
theorem wellFormedFaultsOnlyUnbuilt : Obligations.WellFormedFaultsOnlyUnbuilt := by
  intro i s t wf clear h faulted
  have failed := (exec_decided clear i).check_of_faulted h faulted
  by_cases rdcomb : ∃ m v sel p, i = .rdcomb m v sel p
  · obtain ⟨m, v, sel, p, rfl⟩ := rdcomb
    obtain ⟨cause, k, index, unbuilt⟩ := State.operandFailure_rdcomb wf failed
    exact ⟨cause, m, v, sel, p, k, rfl, index, unbuilt⟩
  · have passed := State.operandFailure_of_wellFormed (s := s) wf
      fun m v sel p hi => rdcomb ⟨m, v, sel, p, hi⟩
    rw [passed] at failed
    cases failed

/-- Settles O48: of the effects of a word only fault entry leaves a block faulted that was not, and on a faulted
block the word only responds. -/
theorem faultEntryIsPrecise : Obligations.FaultEntryIsPrecise := by
  refine ⟨fun s c => ⟨rfl, rfl, rfl, s.sameTables_raiseFault c, s.sameSetting_raiseFault c, ?_⟩,
    fun s t h => ?_⟩
  · have data : (causeCode c).setWidth 32 = BitVec.ofNat 32 (causeNumber c) := by cases c <;> rfl
    exact data ▸ s.responds_raiseFault c
  · obtain ⟨u, hu, effect⟩ := runCommand_effect s
    obtain rfl : u = t := Host.Outcome.next.inj (hu.symm.trans h)
    refine ⟨fun clear faulted => ?_, effect.sameFault_of_faulted⟩
    cases effect with
    | responds st d ht => subst ht; exact absurd (clear.symm.trans faulted) (by decide)
    | faults c clear named ht => subst ht; rfl
    | fills m v clear miss ht => subst ht; exact absurd (clear.symm.trans faulted) (by decide)

/-- Settles O49: the lock-out answers before any check. -/
theorem faultedBlockRefuses : Obligations.FaultedBlockRefuses := fun _ faulted =>
  ⟨fun _ hi => exec_of_faulted faulted hi, runCommand_of_faulted faulted⟩

/-- Settles O50: no event but a reset leaves the faulted state, and the block owes no reset. -/
theorem firstFaultIsKept : Obligations.FirstFaultIsKept := by
  intro s t h faulted noReset
  cases StepEffect.of_step h with
  | idle quiet none h => subst h; exact ⟨⟨rfl, rfl, rfl⟩, ⟨rfl, rfl, rfl⟩⟩
  | owes e quiet owed h =>
    obtain ⟨⟨fault, cause, word⟩, lut, built, count⟩ :=
      h.keeps_of_faulted (s := s.drawArbiter) faulted (State.ne_reset_of_mem_owedMoves owed)
    exact ⟨⟨fault, cause, word⟩, lut, built, count⟩
  | takes e rest ev h =>
    have other : e ≠ .reset := by rintro rfl; exact noReset (by rw [ev]; rfl)
    obtain ⟨⟨fault, cause, word⟩, lut, built, count⟩ :=
      h.keeps_of_faulted (s := s.advance rest) faulted other
    exact ⟨⟨fault, cause, word⟩, lut, built, count⟩

end Sys2Proof.Machine
end

section
/-! SUPPORT. What an event does to one port, said once: the four moves of a transfer, their sum over a run, and
the work that is left for the block (rules R80, R265 and R266). -/

namespace Sys2Proof.Machine

variable {s t : State} {e : Event} {limit p : Nat} {port port' : Port}

/-! ### One event and one port -/

/-- What the event `e`, not a reset, makes of port `p`. The port stays as it is only where it cannot take the
event. -/
inductive Port.Moves (limit p : Nat) (e : Event) (port port' : Port) : Prop
  | stays (h : port' = port) (noOffer : e = .accept p → port.owedAccept limit = false)
      (noCommand : e = .perform p → port.accepted = []) (noResponse : e = .deliver p → port.responses = [])
  | accepts (w : Word) (ws : List Word) (he : e = .accept p) (offers : port.offers = w :: ws)
      (h : port' = { port with offers := ws, accepted := port.accepted ++ [w] })
  | answers (w : Word) (ws : List Word) (r : Response) (he : e = .perform p) (accepted : port.accepted = w :: ws)
      (h : port' = { port with accepted := ws, responses := port.responses ++ [r] })
  | delivers (r : Response) (rs : List Response) (he : e = .deliver p) (responses : port.responses = r :: rs)
      (h : port' = { port with responses := rs, delivered := port.delivered ++ [r] })

theorem Port.owedAccept_eq_true : port.owedAccept limit = true ↔
    port.offers ≠ [] ∧ port.accepted.length + port.responses.length < limit :=
  Bool.and_eq_true_iff.trans (and_congr (by simp [Port.cmdValid]) decide_eq_true_iff)

theorem Port.owedResponse_eq_true : port.owedResponse = true ↔ port.accepted ≠ [] ∧ port.responses = [] := by
  simp [Port.owedResponse]

theorem Port.moves_of_other (ha : e ≠ .accept p) (hp : e ≠ .perform p) (hd : e ≠ .deliver p) :
    port.Moves limit p e port :=
  .stays rfl (absurd · ha) (absurd · hp) (absurd · hd)

theorem Port.moves_acceptOffer : port.Moves limit p (.accept p) (port.acceptOffer limit) := by
  cases offers : port.offers with
  | nil =>
    exact .stays (by simp [Port.acceptOffer, offers]) (fun _ => by simp [Port.owedAccept, Port.cmdValid, offers])
      Event.noConfusion Event.noConfusion
  | cons w ws =>
    rw [Port.acceptOffer_of_offers offers]
    split
    · exact .accepts w ws rfl offers rfl
    · next full =>
      exact .stays rfl (fun _ => Bool.eq_false_iff.2 fun h => full (Port.owedAccept_eq_true.1 h).2)
        Event.noConfusion Event.noConfusion

theorem Port.moves_deliverResponse : port.Moves limit p (.deliver p) port.deliverResponse := by
  cases responses : port.responses with
  | nil =>
    exact .stays (by simp [Port.deliverResponse, responses]) Event.noConfusion Event.noConfusion fun _ => responses
  | cons r rs => exact .delivers r rs rfl responses (Port.deliverResponse_of_responses responses)

/-- Every event but a reset moves each port by a transfer of that port, or leaves it. -/
theorem EventEffect.port_moves (h : EventEffect s t e) (noReset : e ≠ .reset) (hp : s.ports[p]? = some port) :
    ∃ port', t.ports[p]? = some port' ∧ port.Moves s.params.maxOutstanding p e port' := by
  cases h with
  | accepts q h =>
    subst h
    by_cases own : p = q
    · subst own
      exact ⟨_, State.modifyPort_own_port _ hp, Port.moves_acceptOffer⟩
    · exact ⟨port, (State.modifyPort_other_port _ own).trans hp,
        Port.moves_of_other (by simp [Ne.symm own]) Event.noConfusion Event.noConfusion⟩
  | skips q none h =>
    subst h
    exact ⟨port, hp, .stays rfl Event.noConfusion (fun own => none port (by cases own; exact hp)) Event.noConfusion⟩
  | performs q taken w ws hq ha h =>
    obtain ⟨r, responds⟩ := h.exists_response
    obtain ⟨answered, others⟩ := responds.ports_of_takeUp hq
    by_cases own : p = q
    · subst own
      obtain rfl : taken = port := Option.some.inj (hq.symm.trans hp)
      exact ⟨_, answered, .answers w ws r rfl ha rfl⟩
    · exact ⟨port, (others p own).trans hp,
        Port.moves_of_other Event.noConfusion (by simp [Ne.symm own]) Event.noConfusion⟩
  | delivers q h =>
    subst h
    by_cases own : p = q
    · subst own
      exact ⟨_, State.modifyPort_own_port _ hp, Port.moves_deliverResponse⟩
    · exact ⟨port, (State.modifyPort_other_port _ own).trans hp,
        Port.moves_of_other Event.noConfusion Event.noConfusion (by simp [Ne.symm own])⟩
  | resets h => exact absurd rfl noReset

/-- An event leaves the rest of the schedule. -/
theorem EventEffect.keeps_events (h : EventEffect s t e) : t.events = s.events := by
  cases h with
  | accepts p h => subst h; rfl
  | skips p none h => subst h; rfl
  | performs p port w ws hp ha h =>
    cases h with
    | responds st d h => subst h; rfl
    | faults c clear named h => subst h; rfl
    | fills m v clear miss h => subst h; rfl
  | delivers p h => subst h; rfl
  | resets h => subst h; rfl

/-! ### Many events and one port -/

/-- Between two states of a port with no reset between them: the words it has taken from what it was offered
are accepted, and its responses stand behind those before, one for each command that is no longer waiting, while
what was delivered stays so. -/
def Port.Advances (port port' : Port) : Prop :=
  ∃ taken rs, port.offers = taken ++ port'.offers
    ∧ port'.delivered ++ port'.responses = port.delivered ++ port.responses ++ rs
    ∧ rs.length + port'.accepted.length = port.accepted.length + taken.length
    ∧ port.delivered <+: port'.delivered

theorem Port.Advances.refl (port : Port) : port.Advances port :=
  ⟨[], [], rfl, by simp, by simp, List.prefix_rfl⟩

theorem Port.Advances.trans {port'' : Port} (first : port.Advances port') (second : port'.Advances port'') :
    port.Advances port'' := by
  obtain ⟨taken, rs, offers, responses, count, delivered⟩ := first
  obtain ⟨taken', rs', offers', responses', count', delivered'⟩ := second
  refine ⟨taken ++ taken', rs ++ rs', by rw [offers, offers', List.append_assoc],
    by rw [responses', responses, List.append_assoc], ?_, delivered.trans delivered'⟩
  simp only [List.length_append]
  omega

theorem Port.Moves.advances (h : port.Moves limit p e port') : port.Advances port' := by
  cases h with
  | stays h => exact h ▸ .refl port
  | accepts w ws he offers h => subst h; exact ⟨[w], [], by simp [offers]⟩
  | answers w ws r he accepted h => subst h; exact ⟨[], [r], by simp [accepted, Nat.add_comm]⟩
  | delivers r rs he responses h => subst h; exact ⟨[], [], by simp [responses]⟩

/-- The commands of a port that have their response, delivered or not. -/
def Port.answered (port : Port) : Nat := port.delivered.length + port.responses.length

theorem Port.Advances.delivered_le (h : port.Advances port') :
    port.delivered.length ≤ port'.delivered.length := by
  obtain ⟨-, -, -, -, -, delivered⟩ := h
  exact delivered.length_le

/-- A port's answered commands only become more, and so do its commands, answered or accepted. -/
theorem Port.Advances.counts_le (h : port.Advances port') : port.answered ≤ port'.answered
    ∧ port.answered + port.accepted.length ≤ port'.answered + port'.accepted.length := by
  obtain ⟨taken, rs, -, responses, count, -⟩ := h
  have lengths := congrArg List.length responses
  simp only [List.length_append] at lengths
  simp only [Port.answered]
  omega

/-- Once a client has received as many responses as there were commands, the first of them are the earlier
responses and then one for each command that was accepted. -/
theorem Port.Advances.exists_answers (h : port.Advances port')
    (enough : port.answered + port.accepted.length ≤ port'.delivered.length) :
    ∃ rs : List Response, rs.length = port.accepted.length
      ∧ port.delivered ++ port.responses ++ rs <+: port'.delivered := by
  obtain ⟨taken, rs, -, responses, -, -⟩ := h
  have lengths := congrArg List.length responses
  simp only [List.length_append] at lengths
  simp only [Port.answered] at enough
  refine ⟨rs.take port.accepted.length, by rw [List.length_take]; omega, ?_⟩
  refine List.prefix_of_prefix_length_le ?_ (List.prefix_append port'.delivered port'.responses) ?_
  · rw [responses]
    exact (List.prefix_append_right_inj _).2 (List.take_prefix _ _)
  · simp only [List.length_append, List.length_take]
    omega

/-- An offer stays or is accepted, and the responses stay in front or the oldest is delivered (rule R265). -/
theorem Port.Moves.held (h : port.Moves limit p e port') :
    (port'.offers = port.offers ∨ ∃ w, port.offers = w :: port'.offers ∧ port'.accepted = port.accepted ++ [w])
      ∧ (port.responses <+: port'.responses ∧ port'.delivered = port.delivered
        ∨ ∃ r, port.responses = r :: port'.responses ∧ port'.delivered = port.delivered ++ [r]) := by
  cases h with
  | stays h => subst h; exact ⟨.inl rfl, .inl ⟨List.prefix_rfl, rfl⟩⟩
  | accepts w ws he offers h => subst h; exact ⟨.inr ⟨w, offers, rfl⟩, .inl ⟨List.prefix_rfl, rfl⟩⟩
  | answers w ws r he accepted h => subst h; exact ⟨.inl rfl, .inl ⟨List.prefix_append _ _, rfl⟩⟩
  | delivers r rs he responses h => subst h; exact ⟨.inl rfl, .inr ⟨r, responses, rfl⟩⟩

/-- A delivery that finds a response delivers it. -/
theorem Port.Moves.delivered_lt (h : port.Moves limit p e port') (turn : e = .deliver p)
    (waiting : port.responses ≠ []) : port.delivered.length < port'.delivered.length := by
  cases h with
  | stays h noOffer noCommand noResponse => exact absurd (noResponse turn) waiting
  | accepts w ws he => cases he.symm.trans turn
  | answers w ws r he => cases he.symm.trans turn
  | delivers r rs he responses h => simp [h]

/-- A performing that finds an accepted command answers it. -/
theorem Port.Moves.answered_lt (h : port.Moves limit p e port') (turn : e = .perform p)
    (waiting : port.accepted ≠ []) : port.answered < port'.answered := by
  cases h with
  | stays h noOffer noCommand => exact absurd (noCommand turn) waiting
  | accepts w ws he => cases he.symm.trans turn
  | answers w ws r he accepted h => simp [h, Port.answered]
  | delivers r rs he => cases he.symm.trans turn

/-! ### The work left for the block -/

/-- The moves that the words on a port still need of the block: an offer an accept and a performing, an accepted
word a performing. -/
def Port.work (port : Port) : Nat := 2 * port.offers.length + port.accepted.length

/-- The work of port `p`, none where there is no such port. -/
def State.portWork (s : State) (p : Nat) : Nat := s.ports[p]?.elim 0 Port.work

/-- The work of all ports. -/
def State.work (s : State) : Nat := ∑ p ∈ Finset.range s.ports.length, s.portWork p

@[simp] theorem State.portWork_of_port (hp : s.ports[p]? = some port) : s.portWork p = port.work := by
  simp [State.portWork, hp]

theorem Port.Moves.work_le (h : port.Moves limit p e port') : port'.work ≤ port.work := by
  cases h with
  | stays h => rw [h]
  | accepts w ws he offers h => simp [h, Port.work, offers]; omega
  | answers w ws r he accepted h => simp [h, Port.work, accepted]
  | delivers r rs he responses h => simp [h, Port.work]

/-- A move that the block owes the port lessens its work. -/
theorem Port.Moves.work_lt (h : port.Moves limit p e port')
    (owed : (e = .accept p ∧ port.owedAccept limit = true) ∨ (e = .perform p ∧ port.owedResponse = true)) :
    port'.work < port.work := by
  cases h with
  | stays h noOffer noCommand =>
    rcases owed with ⟨he, owed⟩ | ⟨he, owed⟩
    · simp [noOffer he] at owed
    · exact absurd (noCommand he) (Port.owedResponse_eq_true.1 owed).1
  | accepts w ws he offers h => simp [h, Port.work, offers]; omega
  | answers w ws r he accepted h => simp [h, Port.work, accepted]
  | delivers r rs he responses h => subst he; rcases owed with ⟨he, -⟩ | ⟨he, -⟩ <;> cases he

theorem EventEffect.portWork_le (h : EventEffect s t e) (noReset : e ≠ .reset) (inside : p < s.ports.length) :
    t.portWork p ≤ s.portWork p := by
  have hp := List.getElem?_eq_getElem inside
  obtain ⟨port', hp', moves⟩ := h.port_moves noReset hp
  rw [State.portWork_of_port hp, State.portWork_of_port hp']
  exact moves.work_le

theorem EventEffect.work_le (h : EventEffect s t e) (noReset : e ≠ .reset) : t.work ≤ s.work := by
  rw [State.work, State.work, h.keeps_constants.2.2]
  exact Finset.sum_le_sum fun p inside => h.portWork_le noReset (Finset.mem_range.1 inside)

/-- A move that the block owes lessens the work. -/
theorem EventEffect.work_lt (h : EventEffect s t e) (owed : e ∈ s.owedMoves) : t.work < s.work := by
  have noReset := State.ne_reset_of_mem_owedMoves owed
  obtain ⟨p, port, hp, owed⟩ := State.mem_owedMoves.1 owed
  obtain ⟨port', hp', moves⟩ := h.port_moves noReset hp
  rw [State.work, State.work, h.keeps_constants.2.2]
  refine Finset.sum_lt_sum (fun q inside => h.portWork_le noReset (Finset.mem_range.1 inside))
    ⟨p, Finset.mem_range.2 (List.getElem?_eq_some_iff.1 hp).1, ?_⟩
  rw [State.portWork_of_port hp, State.portWork_of_port hp']
  exact moves.work_lt owed

/-! ### Every port through a step -/

/-- Every port of `s` has advanced to that of `t`. -/
def State.Advances (s t : State) : Prop :=
  ∀ (p : Nat) (port : Port), s.ports[p]? = some port → ∃ port', t.ports[p]? = some port' ∧ port.Advances port'

theorem State.Advances.refl (s : State) : s.Advances s := fun _ port hp => ⟨port, hp, .refl port⟩

theorem State.Advances.trans {u : State} (first : s.Advances t) (second : t.Advances u) : s.Advances u := by
  intro p port hp
  obtain ⟨port', hp', advances⟩ := first p port hp
  obtain ⟨port'', hp'', advances'⟩ := second p port' hp'
  exact ⟨port'', hp'', advances.trans advances'⟩

theorem EventEffect.advances (h : EventEffect s t e) (noReset : e ≠ .reset) : s.Advances t := fun _ _ hp =>
  (h.port_moves noReset hp).imp fun _ ⟨hp', moves⟩ => ⟨hp', moves.advances⟩

end Sys2Proof.Machine
end

section
/-! SUPPORT. Runs of many steps: to the block at rest, through the deliveries of one port, and without end under
fairness (rules R265 and R266). -/

namespace Sys2Proof.Machine

open Sys2Proof.Claims

variable {s t : State} {p : Nat} {port : Port}

theorem steps_succ (h : step s = .next t) (n : Nat) : steps (n + 1) s = steps n t := by rw [steps, h]

/-! ### To rest -/

/-- The step of an owed move is that of the move scheduled, with the arbiter's choice counted. -/
theorem step_of_ownMove {e : Event} (quiet : s.events = []) (h : s.ownMove = some e) :
    step s = step { s with events := [e], arbiterDraws := s.arbiterDraws + 1 } := by
  have drawn : s.drawArbiter = { s with events := [], arbiterDraws := s.arbiterDraws + 1 } := by
    rw [← quiet]; rfl
  rw [step, quiet]
  simp only [h, drawn]
  rfl

/-- With nothing scheduled and nothing owed a step leaves the state as it is. -/
theorem step_of_owedMoves_nil (quiet : s.events = []) (none : s.owedMoves = []) : step s = .next s := by
  rw [step, quiet]
  simp [State.ownMove_eq_none.2 none]

/-- The block owes a move exactly where a port has an offer within the limit, or a command whose client has taken
every earlier response. -/
theorem State.owedMoves_ne_nil : s.owedMoves ≠ [] ↔ ∃ port ∈ s.ports,
    (port.offers ≠ [] ∧ port.accepted.length + port.responses.length < s.params.maxOutstanding)
      ∨ (port.accepted ≠ [] ∧ port.responses = []) := by
  constructor
  · intro owed
    obtain ⟨e, he⟩ := List.exists_mem_of_ne_nil _ owed
    obtain ⟨p, port, hp, ⟨-, owed⟩ | ⟨-, owed⟩⟩ := State.mem_owedMoves.1 he
    · exact ⟨port, List.mem_of_getElem? hp, .inl (Port.owedAccept_eq_true.1 owed)⟩
    · exact ⟨port, List.mem_of_getElem? hp, .inr (Port.owedResponse_eq_true.1 owed)⟩
  · rintro ⟨port, hmem, owed⟩
    obtain ⟨p, hp⟩ := List.mem_iff_getElem?.1 hmem
    rcases owed with owed | owed
    · exact List.ne_nil_of_mem (State.mem_owedMoves.2
        ⟨p, port, hp, .inl ⟨rfl, Port.owedAccept_eq_true.2 owed⟩⟩)
    · exact List.ne_nil_of_mem (State.mem_owedMoves.2
        ⟨p, port, hp, .inr ⟨rfl, Port.owedResponse_eq_true.2 owed⟩⟩)

/-- The schedule is used up and each owed move lessens the work, so the block comes to rest. -/
theorem exists_steps_to_rest (s : State) (noReset : .reset ∉ s.events) :
    ∃ n t, steps n s = .next t ∧ t.events = [] ∧ t.owedMoves = [] ∧ s.Advances t := by
  obtain ⟨t, ht, effect⟩ := step_effect s
  cases effect with
  | idle quiet none => exact ⟨0, s, rfl, quiet, none, .refl s⟩
  | owes e quiet owed h =>
    have events : t.events = [] := h.keeps_events.trans quiet
    have less : t.work < s.work := h.work_lt owed
    obtain ⟨n, u, hu, rest, none, advances⟩ := exists_steps_to_rest t (by simp [events])
    exact ⟨n + 1, u, (steps_succ ht n).trans hu, rest, none,
      (h.advances (State.ne_reset_of_mem_owedMoves owed)).trans advances⟩
  | takes e rest ev h =>
    rw [ev, List.mem_cons, not_or] at noReset
    have events : t.events = rest := h.keeps_events
    have le : t.work ≤ s.work := h.work_le (Ne.symm noReset.1)
    obtain ⟨n, u, hu, rest, none, advances⟩ := exists_steps_to_rest t (events ▸ noReset.2)
    exact ⟨n + 1, u, (steps_succ ht n).trans hu, rest, none, (h.advances (Ne.symm noReset.1)).trans advances⟩
termination_by s.events.length + s.work
decreasing_by
  · simp [events, quiet, less]
  · simp only [events, ev, List.length_cons]; omega

/-! ### The deliveries of one port -/

/-- As many deliveries as a port has responses deliver them all, in order. -/
theorem steps_deliver {rs : List Response} (rest : List Event)
    (hev : s.events = List.replicate rs.length (.deliver p) ++ rest) (hp : s.ports[p]? = some port)
    (responses : port.responses = rs) :
    ∃ t, steps rs.length s = .next t ∧ t.events = rest
      ∧ t.ports[p]? = some { port with responses := [], delivered := port.delivered ++ rs } := by
  induction rs generalizing s port with
  | nil =>
    refine ⟨s, rfl, hev, ?_⟩
    rw [hp, List.append_nil, ← responses]
  | cons r rs ih =>
    rw [List.length_cons, List.replicate_succ, List.cons_append] at hev
    have own := State.modifyPort_own_port
      (s := s.advance (List.replicate rs.length (.deliver p) ++ rest)) Port.deliverResponse hp
    rw [Port.deliverResponse_of_responses responses] at own
    obtain ⟨t, ht, events, delivered⟩ := ih rfl own rfl
    exact ⟨t, (steps_succ (step_deliver hev) _).trans ht, events, by simpa using delivered⟩

/-- A step uses up the head of the schedule. -/
theorem step_events (h : step s = .next t) : t.events = s.events.tail := by
  cases StepEffect.of_step h with
  | idle quiet none h => rw [h, quiet, List.tail_nil]
  | owes e quiet owed h => exact h.keeps_events.trans (by simp [quiet])
  | takes e rest ev h => exact h.keeps_events.trans (by simp [ev])

/-! ### Infinite runs -/

section
variable {run : Nat → State} {choice : Nat → Event} {n m k : Nat}

theorem IsRun.event_effect (h : IsRun run choice) (n : Nat) :
    EventEffect ((run n).advance []) (run (n + 1)) (choice n) := by
  obtain ⟨t, ht, effect⟩ := stepEvent_effect (choice n) ((run n).advance [])
  have same : step { run n with events := [choice n] } = .next t := ht
  obtain rfl : t = run (n + 1) := Host.Outcome.next.inj (same.symm.trans (h n))
  exact effect

theorem IsRun.port_moves (h : IsRun run choice) (noReset : choice m ≠ .reset)
    (hp : (run m).ports[p]? = some port) : ∃ port', (run (m + 1)).ports[p]? = some port'
      ∧ port.Moves (run m).params.maxOutstanding p (choice m) port' :=
  (h.event_effect m).port_moves noReset hp

variable (isRun : IsRun run choice) (noReset : ∀ m, n ≤ m → choice m ≠ .reset)
include isRun noReset

/-- Every port advances along a run without a reset. -/
theorem IsRun.advances (hm : n ≤ m) (hk : m ≤ k) : (run m).Advances (run k) := by
  induction k, hk using Nat.le_induction with
  | base => exact .refl _
  | succ k hk ih => exact ih.trans ((isRun.event_effect k).advances (noReset k (hm.trans hk)))

/-- A client that does not leave a response waiting for ever takes one more. -/
theorem IsRun.exists_delivered_of_responses (client : ClientAccepts run choice p) (hm : n ≤ m)
    (hp : (run m).ports[p]? = some port) (waiting : port.responses ≠ []) : ∃ k later, m ≤ k
      ∧ (run k).ports[p]? = some later ∧ port.Advances later
      ∧ port.delivered.length < later.delivered.length := by
  obtain ⟨k, hk, turn⟩ := client m
  obtain ⟨now, hnow, advances⟩ := isRun.advances noReset hm hk p port hp
  by_cases taken : now.responses = []
  · refine ⟨k, now, hk, hnow, advances, ?_⟩
    obtain ⟨answered, -⟩ := advances.counts_le
    have := List.length_pos_iff.2 waiting
    simp only [Port.answered, taken, List.length_nil] at answered
    omega
  · have turn := turn.resolve_right fun none => taken (none now hnow)
    obtain ⟨later, hlater, moves⟩ := isRun.port_moves (noReset k (hm.trans hk)) hnow
    exact ⟨k + 1, later, by omega, hlater, advances.trans moves.advances,
      advances.delivered_le.trans_lt (moves.delivered_lt turn taken)⟩

/-- A block that does not leave a response owed for ever answers one command more. -/
theorem IsRun.exists_answered_of_accepted (fair : WeaklyFair run choice p) (hm : n ≤ m)
    (hp : (run m).ports[p]? = some port) (waiting : port.accepted ≠ []) (taken : port.responses = []) :
    ∃ k later, m ≤ k ∧ (run k).ports[p]? = some later ∧ port.Advances later
      ∧ port.answered < later.answered := by
  obtain ⟨k, hk, turn⟩ := fair m
  obtain ⟨now, hnow, advances⟩ := isRun.advances noReset hm hk p port hp
  obtain ⟨answered, commands⟩ := advances.counts_le
  by_cases owed : now.owedResponse = true
  · have turn := turn.resolve_right fun none => by simp [none now hnow] at owed
    obtain ⟨later, hlater, moves⟩ := isRun.port_moves (noReset k (hm.trans hk)) hnow
    exact ⟨k + 1, later, by omega, hlater, advances.trans moves.advances,
      answered.trans_lt (moves.answered_lt turn (Port.owedResponse_eq_true.1 owed).1)⟩
  · refine ⟨k, now, hk, hnow, advances, ?_⟩
    rw [Port.owedResponse_eq_true, not_and_or, not_not] at owed
    rcases owed with performed | produced
    · have := List.length_pos_iff.2 waiting
      simp only [performed, List.length_nil] at commands
      omega
    · have := List.length_pos_iff.2 produced
      have delivered := advances.delivered_le
      simp only [Port.answered, taken, List.length_nil]
      omega

variable (fair : WeaklyFair run choice p) (client : ClientAccepts run choice p)
include fair client

/-- While a command of the port is accepted or a response is undelivered, one response more is delivered. -/
theorem IsRun.exists_delivered (hm : n ≤ m) (hp : (run m).ports[p]? = some port)
    (pending : port.delivered.length < port.answered + port.accepted.length) : ∃ k later, m ≤ k
      ∧ (run k).ports[p]? = some later ∧ port.Advances later
      ∧ port.delivered.length < later.delivered.length := by
  by_cases responses : port.responses = []
  · have accepted : port.accepted ≠ [] := by
      intro accepted
      simp [Port.answered, responses, accepted] at pending
    obtain ⟨k, now, hk, hnow, advances, answered⟩ :=
      isRun.exists_answered_of_accepted noReset fair hm hp accepted responses
    by_cases taken : now.responses = []
    · refine ⟨k, now, hk, hnow, advances, ?_⟩
      simpa [Port.answered, responses, taken] using answered
    · obtain ⟨k', later, hk', hlater, further, more⟩ :=
        isRun.exists_delivered_of_responses noReset client (hm.trans hk) hnow taken
      exact ⟨k', later, hk.trans hk', hlater, advances.trans further, advances.delivered_le.trans_lt more⟩
  · exact isRun.exists_delivered_of_responses noReset client hm hp responses

/-- One response at a time, the client receives one for every command there was. -/
theorem IsRun.exists_delivered_ge (hp : (run n).ports[p]? = some port) {d : Nat}
    (hd : d ≤ port.answered + port.accepted.length) : ∃ k later, n ≤ k ∧ (run k).ports[p]? = some later
      ∧ port.Advances later ∧ d ≤ later.delivered.length := by
  induction d with
  | zero => exact ⟨n, port, le_rfl, hp, .refl port, Nat.zero_le _⟩
  | succ d ih =>
    obtain ⟨m, now, hm, hnow, advances, enough⟩ := ih (by omega)
    by_cases pending : now.delivered.length < now.answered + now.accepted.length
    · obtain ⟨k, later, hk, hlater, further, more⟩ := isRun.exists_delivered noReset fair client hm hnow pending
      exact ⟨k, later, hm.trans hk, hlater, advances.trans further, by omega⟩
    · obtain ⟨-, commands⟩ := advances.counts_le
      exact ⟨m, now, hm, hnow, advances, by omega⟩

end

end Sys2Proof.Machine
end

section
/-! Settles the statements about reset, the held transfers and forward progress (rules R260 to R266). -/

namespace Sys2Proof.Machine

open Sys2Proof.Claims

/-- Settles O12: the client receives one response for every command there was, and the first of them are those
before and the answers in order. -/
theorem fairRunsAnswerEveryCommand : Obligations.FairRunsAnswerEveryCommand := by
  intro run choice p n port isRun fair client noReset hp
  obtain ⟨m, later, hm, hlater, advances, enough⟩ := isRun.exists_delivered_ge noReset fair client hp le_rfl
  obtain ⟨rs, count, answers⟩ := advances.exists_answers enough
  exact ⟨m, later, rs, hm, hlater, count, answers⟩

/-- Settles O13: the block comes to rest, where it owes nothing, and every port has advanced. -/
theorem blockAnswersWhatItOwes : Obligations.BlockAnswersWhatItOwes := by
  intro s noReset
  obtain ⟨n, t, ht, quiet, none, advances⟩ := exists_steps_to_rest s noReset
  refine ⟨n, t, ht, step_of_owedMoves_nil quiet none, fun p port hp => ?_⟩
  obtain ⟨port', hp', taken, rs, offers, responses, count, -⟩ := advances p port hp
  refine ⟨port', taken, rs, hp', ?_, offers, responses, count⟩
  by_contra owed
  rw [not_or, not_not] at owed
  exact State.owedMoves_ne_nil.2 ⟨port', List.mem_of_getElem? hp', .inr owed⟩ none

/-- Settles O14: the command is answered by the first step, and the deliveries take every response. -/
theorem acceptedCommandIsAnswered : Obligations.AcceptedCommandIsAnswered := by
  intro s p rest port w ws hev hp ha
  obtain ⟨t, r, ht, own, -, -⟩ := eachCommandAnswersOnce s p _ port w ws hev hp ha
  have events : t.events = List.replicate (port.responses ++ [r]).length (.deliver p) ++ rest := by
    simpa [hev] using step_events ht
  obtain ⟨u, hu, left, delivered⟩ := steps_deliver rest events own rfl
  rw [List.length_append] at hu
  exact ⟨u, r, (steps_succ ht _).trans hu, left, by simpa using delivered⟩

/-- Settles O15: every move of the port holds them, and the block owes no reset. -/
theorem offersAndResponsesHeld : Obligations.OffersAndResponsesHeld := by
  intro s t p port h noReset hp
  cases StepEffect.of_step h with
  | idle quiet none h => exact ⟨port, h ▸ hp, .inl rfl, .inl ⟨List.prefix_rfl, rfl⟩⟩
  | owes e quiet owed h =>
    obtain ⟨port', hp', moves⟩ := h.port_moves (State.ne_reset_of_mem_owedMoves owed) hp
    exact ⟨port', hp', moves.held⟩
  | takes e rest ev h =>
    have other : e ≠ .reset := by rintro rfl; exact noReset (by rw [ev]; rfl)
    obtain ⟨port', hp', moves⟩ := h.port_moves other hp
    exact ⟨port', hp', moves.held⟩

/-- Settles O8: the arbiter chooses an owed move, if there is one, and the step is that of the move scheduled. -/
theorem blockMakesOwedMoves : Obligations.BlockMakesOwedMoves := by
  refine fun s quiet => ⟨fun settled => ?_, fun owed => ?_⟩
  · refine step_of_owedMoves_nil quiet (by_contra fun owed => ?_)
    obtain ⟨port, hmem, ⟨offers, room⟩ | ⟨accepted, responses⟩⟩ := State.owedMoves_ne_nil.1 owed
    · exact absurd room (not_lt.2 ((settled port hmem).1.resolve_left offers))
    · exact (settled port hmem).2.resolve_left accepted responses
  · obtain ⟨e, he⟩ := Option.ne_none_iff_exists'.1 (mt State.ownMove_eq_none.1 (State.owedMoves_ne_nil.2 owed))
    obtain ⟨p, port, hp, move⟩ := State.mem_owedMoves.1 (State.mem_of_ownMove he)
    rw [Port.owedAccept_eq_true, Port.owedResponse_eq_true] at move
    exact ⟨p, port, e, hp, move, step_of_ownMove quiet he⟩

theorem State.statusView_resetBlock (s : State) : s.resetBlock.statusView = 0 :=
  (rfl : s.resetBlock.statusView = State.reset.statusView).trans statusShowsStatusState.2

/-- Settles O54: the reset is carried out as `resetBlock` writes it. -/
theorem resetLeaves : Obligations.ResetLeaves := by
  intro s rest hev
  refine ⟨_, step_of_events hev, rfl, rfl, rfl, rfl, rfl, State.statusView_resetBlock _, rfl, rfl,
    fun port hmem => ?_⟩
  obtain ⟨port, -, rfl⟩ := List.mem_map.1 hmem
  exact ⟨rfl, rfl⟩

/-- Settles O55: no slot is built, the tables are those of rules R190 to R193, and every port is idle. -/
theorem resetIsConsistent : Obligations.ResetIsConsistent where
  tables m v built := by simp [State.reset, builtBit] at built
  basic := State.basicTablesHold_reset
  count := rfl
  faults := ⟨iff_of_true rfl rfl, fun _ => rfl⟩
  ports port hmem := by
    rcases List.mem_cons.1 hmem with rfl | hmem
    · exact Nat.zero_le _
    · rw [List.eq_of_mem_replicate hmem, Port.outstanding_idle]
      exact Nat.zero_le _

end Sys2Proof.Machine
end
